-- ==== Sys2Proof/Word.lean ====
section
/-! DEFINITION. The widths of the block's values (spec/10_state.md R20 to R37, spec/40_radio_port.md R124). -/

namespace Sys2Proof

/-- One byte: an element of TXBUF, APBUF or SINE (R61 to R63). -/
abbrev Byte := BitVec 8

/-- A 12-bit buffer index or length (R31 to R34, R61, R62). -/
abbrev Index := BitVec 12

/-- A 32-bit word: a command word (R91), a compare value (R23), a value RDREG returns (R45). -/
abbrev Word := BitVec 32

/-- A frequency in Hz handed to `set_frequency_fast`: an integer in 0 to 2^32-1 (R124). -/
abbrev Hz := BitVec 32

end Sys2Proof
end

