-- ==== Sys2Proof/Syntax.lean ====
section
/-! DEFINITION. The enumerations of the block and its operations: twelve host commands and thirteen
tick-dispatch entries, one constructor per row of spec/opcode_table.json (spec/30_encoding.md R92, R97). -/

namespace Sys2Proof

/-- MODE, the interrupt mode selector (R21). -/
inductive Mode where
  | rttyInterrupt | gfskSync | unused | lookup
deriving DecidableEq, Repr

/-- RSTATE, the state of the RTTY machine: six values, no seventh (R27). -/
inductive RState where
  | pause | startbit | byte | stopbit | reload | wait
deriving DecidableEq, Repr

/-- ATONE, the tone now being sent (R35). -/
inductive Tone where
  | t1200 | t2200
deriving DecidableEq, Repr

/-- The two timers (R16, R239). -/
inductive Timer where
  | a | b
deriving DecidableEq, Repr

/-- Who makes the next step: the host with a command, or a timer with a tick (R72, R241, R278). -/
inductive Agent where
  | host
  | timer (v : Timer)
deriving DecidableEq, Repr

/-- The three error kinds (R230). -/
inductive ErrorKind where
  | chipNotReady | bufferOverrun | modeConflict
deriving DecidableEq, Repr

/-- An operation of the block (R3). The operands have the widths of R91 and R94. -/
inductive Instr where
  | nop
  | stopTimers
  | setMode (mode : Mode)
  | abort
  | startRtty (length : Index)
  | txRttyPolled (length : Index)
  | startAprsGfsk (flagStart flagEnd : Index)
  | startAprsLookup (flagStart flagEnd : Index)
  | wrTxbuf (idx : Index) (byte : Byte)
  | wrApbuf (idx : Index) (byte : Byte)
  | rdreg (n : BitVec 8)
  | clrErr (mask : BitVec 3)
  | tickaRttyPause
  | tickaRttyStartbit
  | tickaRttyByte
  | tickaRttyStopbit
  | tickaRttyReload
  | tickaRttyWait
  | tickaGfsk
  | tickaUnused
  | tickaLookup
  | tickbRtty
  | tickbGfsk
  | tickbUnused
  | tickbLookup
deriving DecidableEq, Repr

end Sys2Proof
end

