-- ==== Sys2Proof/Decode.lean ====
section
/-! DEFINITION. The two encodings (spec/30_encoding.md): the 32-bit command word (R91 to R95) and the 6-bit
dispatch key (R96 to R98), each decoded totally, and the encoder of every operation. -/

namespace Sys2Proof

/-- Why a command word or a dispatch key is refused. -/
inductive DecodeError where
  /-- The opcode field names no command (R95). -/
  | unassignedOpcode
  /-- The opcode is assigned and a must-be-zero bit is set (R91, R95). -/
  | mustBeZero
  /-- The key `0 00 110` or `0 00 111`, which selects nothing (R98). -/
  | unusedKey
deriving DecidableEq, Repr

/-- What an operation is encoded as: a command word, or the dispatch key of a tick (R90). -/
inductive Encoding where
  | command (w : Word)
  | key (k : BitVec 6)
deriving DecidableEq, Repr

/-! ### The enumerations' numbers (R99) -/

/-- MODE as a number: the ordinal in the source's list (R21, R99). -/
def Mode.toBits : Mode → BitVec 2
  | .rttyInterrupt => 0
  | .gfskSync => 1
  | .unused => 2
  | .lookup => 3

/-- The mode a 2-bit number names; all four are legal (R21). -/
def Mode.ofBits (b : BitVec 2) : Mode :=
  if b = 0 then .rttyInterrupt else if b = 1 then .gfskSync else if b = 2 then .unused else .lookup

/-- RSTATE as a number (R27, R99). -/
def RState.toBits : RState → BitVec 3
  | .pause => 0
  | .startbit => 1
  | .byte => 2
  | .stopbit => 3
  | .reload => 4
  | .wait => 5

/-- The RTTY state a 3-bit number names; 6 and 7 name none (R27, R98). -/
def RState.ofBits (b : BitVec 3) : Option RState :=
  if b = 0 then some .pause else if b = 1 then some .startbit else if b = 2 then some .byte
  else if b = 3 then some .stopbit else if b = 4 then some .reload else if b = 5 then some .wait
  else none

/-- The vector bit of a timer (R96, R99). -/
def Timer.toBit : Timer → BitVec 1
  | .a => 0
  | .b => 1

/-- The timer of a vector bit (R96, R99). -/
def Timer.ofBit (b : BitVec 1) : Timer := if b = 0 then .a else .b

/-! ### The command word (R91 to R95) -/

/-- The opcode field `w[31:24]` (R91). -/
def opField (w : Word) : BitVec 8 := w.extractLsb' 24 8

/-- The first operand field `w[23:12]` (R91). -/
def aField (w : Word) : Index := w.extractLsb' 12 12

/-- The second operand field `w[11:0]` (R91). -/
def bField (w : Word) : Index := w.extractLsb' 0 12

/-- One row of the opcode map: a word `w` is the row's when `w and mask = pattern` (R92, R93). -/
structure CommandRow where
  pattern : Word
  mask    : Word
  build   : Word → Instr

/-- The opcode map, twelve rows in the order of R92. -/
def commandRows : List CommandRow :=
  [ ⟨0x00000000, 0xFFFFFFFF, fun _ => .nop⟩,
    ⟨0x01000000, 0xFFFFFFFF, fun _ => .stopTimers⟩,
    ⟨0x02000000, 0xFFFFFFFC, fun w => .setMode (Mode.ofBits ((bField w).extractLsb' 0 2))⟩,
    ⟨0x03000000, 0xFFFFFFFF, fun _ => .abort⟩,
    ⟨0x10000000, 0xFFFFF000, fun w => .startRtty (bField w)⟩,
    ⟨0x11000000, 0xFFFFF000, fun w => .txRttyPolled (bField w)⟩,
    ⟨0x20000000, 0xFF000000, fun w => .startAprsGfsk (aField w) (bField w)⟩,
    ⟨0x21000000, 0xFF000000, fun w => .startAprsLookup (aField w) (bField w)⟩,
    ⟨0x30000000, 0xFF000F00, fun w => .wrTxbuf (aField w) ((bField w).extractLsb' 0 8)⟩,
    ⟨0x31000000, 0xFF000F00, fun w => .wrApbuf (aField w) ((bField w).extractLsb' 0 8)⟩,
    ⟨0x40000000, 0xFFFFFF00, fun w => .rdreg ((bField w).extractLsb' 0 8)⟩,
    ⟨0x41000000, 0xFFFFFFF8, fun w => .clrErr ((bField w).extractLsb' 0 3)⟩ ]

/-- A word matches a row (R93). -/
def CommandRow.matchesWord (r : CommandRow) (w : Word) : Bool := w &&& r.mask == r.pattern

/-- The opcode field of the word is some row's opcode (R92). -/
def opcodeAssigned (w : Word) : Bool := commandRows.any fun r => opField w == opField r.pattern

/-- The decoder of command words: total; a word that matches no row is a reserved word and is refused, not
taken as NOP (R93, R95, spec/93 U6; log entry 8). -/
def decodeCommand (w : Word) : Except DecodeError Instr :=
  match commandRows.find? fun r => r.matchesWord w with
  | some r => .ok (r.build w)
  | none => .error (if opcodeAssigned w then .mustBeZero else .unassignedOpcode)

/-! ### The dispatch key (R96 to R98) -/

/-- The entry a tick performs, from the ticking timer, MODE and RSTATE: the dispatch table of R97. -/
def dispatch (v : Timer) (m : Mode) (r : RState) : Instr :=
  match v, m with
  | .a, .rttyInterrupt =>
    match r with
    | .pause => .tickaRttyPause
    | .startbit => .tickaRttyStartbit
    | .byte => .tickaRttyByte
    | .stopbit => .tickaRttyStopbit
    | .reload => .tickaRttyReload
    | .wait => .tickaRttyWait
  | .a, .gfskSync => .tickaGfsk
  | .a, .unused => .tickaUnused
  | .a, .lookup => .tickaLookup
  | .b, .rttyInterrupt => .tickbRtty
  | .b, .gfskSync => .tickbGfsk
  | .b, .unused => .tickbUnused
  | .b, .lookup => .tickbLookup

/-- The key `v ++ MODE ++ RSTATE` (R96). -/
def dispatchKey (v : Timer) (m : Mode) (r : RState) : BitVec 6 := v.toBit ++ m.toBits ++ r.toBits

/-- The vector of a key, `k[5]` (R96). -/
def keyTimer (k : BitVec 6) : Timer := Timer.ofBit (k.extractLsb' 5 1)

/-- The mode of a key, `k[4:3]` (R96). -/
def keyMode (k : BitVec 6) : Mode := Mode.ofBits (k.extractLsb' 3 2)

/-- The three low bits of a key take part in the selection (R96). -/
def keyUsesRState (k : BitVec 6) : Bool := decide (keyTimer k = .a ∧ keyMode k = .rttyInterrupt)

/-- The decoder of dispatch keys: total; the two keys of R98 select nothing. -/
def decodeKey (k : BitVec 6) : Except DecodeError Instr :=
  match keyUsesRState k, RState.ofBits (k.extractLsb' 0 3) with
  | true, some r => .ok (dispatch (keyTimer k) (keyMode k) r)
  | true, none => .error .unusedKey
  | false, _ => .ok (dispatch (keyTimer k) (keyMode k) .wait)

/-- Decoding of either encoding (R90). -/
def decode : Encoding → Except DecodeError Instr
  | .command w => decodeCommand w
  | .key k => decodeKey k

/-! ### The encoder -/

/-- A command word from its three fields (R91). -/
def commandWord (op : BitVec 8) (a b : Index) : Word := op ++ a ++ b

/-- The encoding of an operation, from the tables of R92 and R97. Don't-care bits of a key are written as
zeros (DESIGN CHOICE, log entry 13). -/
def encode : Instr → Encoding
  | .nop => .command (commandWord 0x00 0 0)
  | .stopTimers => .command (commandWord 0x01 0 0)
  | .setMode m => .command (commandWord 0x02 0 (m.toBits.setWidth 12))
  | .abort => .command (commandWord 0x03 0 0)
  | .startRtty n => .command (commandWord 0x10 0 n)
  | .txRttyPolled n => .command (commandWord 0x11 0 n)
  | .startAprsGfsk fs fe => .command (commandWord 0x20 fs fe)
  | .startAprsLookup fs fe => .command (commandWord 0x21 fs fe)
  | .wrTxbuf i v => .command (commandWord 0x30 i (v.setWidth 12))
  | .wrApbuf i v => .command (commandWord 0x31 i (v.setWidth 12))
  | .rdreg n => .command (commandWord 0x40 0 (n.setWidth 12))
  | .clrErr k => .command (commandWord 0x41 0 (k.setWidth 12))
  | .tickaRttyPause => .key 0b000000
  | .tickaRttyStartbit => .key 0b000001
  | .tickaRttyByte => .key 0b000010
  | .tickaRttyStopbit => .key 0b000011
  | .tickaRttyReload => .key 0b000100
  | .tickaRttyWait => .key 0b000101
  | .tickaGfsk => .key 0b001000
  | .tickaUnused => .key 0b010000
  | .tickaLookup => .key 0b011000
  | .tickbRtty => .key 0b100000
  | .tickbGfsk => .key 0b101000
  | .tickbUnused => .key 0b110000
  | .tickbLookup => .key 0b111000

/-! ### The opcode table's numbering -/

/-- The encoding held in the low `nbits` bits of `w`: a row of at most 8 bits is a dispatch key (format
DISP6, 6 bits in whole bytes), any other a command word (format CMD32). None where `w` does not fit
(log entry 13). -/
def encodingOfTableWord (nbits w : Nat) : Option Encoding :=
  if nbits ≤ 8 then (if w < 64 then some (.key (BitVec.ofNat 6 w)) else none)
  else if w < 4294967296 then some (.command (BitVec.ofNat 32 w)) else none

/-- The instruction the decoder reads from a word numbered as spec/opcode_table.json numbers it. -/
def decodeTableWord (nbits w : Nat) : Option Instr :=
  match encodingOfTableWord nbits w with
  | some e => (decode e).toOption
  | none => none

end Sys2Proof
end

