-- ==== Sys2Proof/Config.lean ====
section
/-! DEFINITION. The compile-time parameters of the block (spec/00_scope.md R9, R10) as one record, and the
free values: opaque constants of which nothing is known. The record is carried by State (log entry 4), so
every statement about all states is a statement about all configurations. -/

namespace Sys2Proof

/-- `RTTY_NBITS`: 7 or 8 data bits per character (R9, R11). -/
inductive DataBits where
  | seven | eight
deriving DecidableEq, Repr

/-- `RTTY_NSTOP`: 1 or 2 stop-bit durations (R9, R11). -/
inductive StopBits where
  | one | two
deriving DecidableEq, Repr

/-- `PROFILE`: the host clock, 12, 16 or 64 MHz (R9). -/
inductive Profile where
  | clk12 | clk16 | clk64
deriving DecidableEq, Repr

/-- The six constants that depend on the host clock, always taken together (R10). -/
structure ProfileConsts where
  cmpRtty      : Word
  cmpGfsk      : Word
  cmpLutBit    : Word
  cmpLutSample : Word
  step1200     : Byte
  step2200     : Byte
deriving DecidableEq, Repr

/-- The configuration record `Cfg` (R9). No operation of the block changes any of it. -/
structure Config where
  txCap          : Nat
  apCap          : Nat
  rttyNbits      : DataBits
  rttyNstop      : StopBits
  rttyPauseTicks : BitVec 16
  profile        : Profile
  clk12          : ProfileConsts
  clk16          : ProfileConsts
  clk64          : ProfileConsts
  lutMult1200    : Int
  lutMult2200    : Int
  lutOffs1200    : Int
  lutOffs2200    : Int
  fRttyMark      : Hz
  fRttySpace     : Hz
  fAprs          : Hz
  fAprs1200      : Hz
  fAprs2200      : Hz
  nCtsMain       : Nat
  nCtsIsr        : Nat
deriving DecidableEq, Repr

/-- The constants of the selected profile, as one record: a mixture of two profiles cannot be formed
(R10, spec/93 U5; log entry 5). -/
def Config.consts (c : Config) : ProfileConsts :=
  match c.profile with
  | .clk12 => c.clk12
  | .clk16 => c.clk16
  | .clk64 => c.clk64

/-- Free value: the radio's answer to the readiness poll number `n`, where the schedule supplies none.
One Boolean per emission, under no law (R125, spec/93 U9; log entry 3). -/
opaque Config.radioReady : Nat → Bool

/-- Free value: who steps, in which order and how often, before a timer's turn number `n` comes: any finite
list, and finite it is by the fairness of R274. The source fixes no order (R241, spec/93 U13; log entry 2). -/
opaque Config.before : Nat → List Agent

/-- Free value: the command word the host issues at choice number `n` of an infinite schedule (R278; log entry
30). -/
opaque Config.hostWord : Nat → Word

/-- Free value: an OPEN frequency of the configuration a model starts from (R9; log entry 4). -/
opaque Config.openHz : Nat → Hz

/-- Free value: an OPEN compare value of the configuration a model starts from (R9; log entry 4). -/
opaque Config.openCompare : Nat → Word

/-- `CARRIERCODE`: the carrier-frequency register code of a frequency under a configuration. The source
forbids guessing its form, so nothing is assumed but that it is a function (R130, spec/93 U8; log entry
17). No rule of the block uses it. -/
opaque Config.carrierCode : Config → Hz → Nat

/-- One profile record of the configuration State.reset carries: the compare values are free values,
the steps are the example steps of spec/95 section 2.5 (log entry 4). -/
def ProfileConsts.ofVectors (k : Nat) : ProfileConsts where
  cmpRtty      := Config.openCompare (4 * k)
  cmpGfsk      := Config.openCompare (4 * k + 1)
  cmpLutBit    := Config.openCompare (4 * k + 2)
  cmpLutSample := Config.openCompare (4 * k + 3)
  step1200     := 6
  step2200     := 11

/-- The configuration State.reset carries: the defaults of R9, the conventions and example parameters of
spec/95 (its opening and section 2.5), and free values for the rest (DESIGN CHOICE, log entry 4). -/
def Config.vectors : Config where
  txCap          := 330
  apCap          := 350
  rttyNbits      := .seven
  rttyNstop      := .one
  rttyPauseTicks := 0
  profile        := .clk12
  clk12          := ProfileConsts.ofVectors 0
  clk16          := ProfileConsts.ofVectors 1
  clk64          := ProfileConsts.ofVectors 2
  lutMult1200    := 10
  lutMult2200    := 10
  lutOffs1200    := -1280
  lutOffs2200    := -1280
  fRttyMark      := Config.openHz 0
  fRttySpace     := Config.openHz 1
  fAprs          := 144800000
  fAprs1200      := Config.openHz 2
  fAprs2200      := Config.openHz 3
  nCtsMain       := 15000
  nCtsIsr        := 1

end Sys2Proof
end

