-- ==== Sys2Proof/Machine/State.lean ====
section
/-! DEFINITION. The state of the machine as plain data: every piece of state of spec/10_state.md R20, the
inputs spec/70_reset_and_hazards.md R278 lists (configuration, schedule, readiness draws), the values RDREG
has returned; and the reset state (R46, R260). -/

namespace Sys2Proof.Machine

/-- The model faults: the step has no further meaning (R14). The three error kinds of R230 are not faults;
they are sticky bits of State. -/
inductive Fault where
  /-- WR_TXBUF or WR_APBUF inside the capacity while that buffer is in flight (R249). Safe: the hardware
  writes the byte and goes on. -/
  | handoffViolation
  /-- An engine read of a buffer byte never written since reset (R262). Safe: the hardware reads some byte. -/
  | unwrittenBufferRead
  /-- An engine read at an index the buffer does not have (R61, R62). Raised by a character load or a bit
  fetch only in states no run reaches (log entry 7). Safe. -/
  | indexOutsideBuffer
  /-- TX_RTTY_POLLED was not in WAIT after the number of passes R275 gives. Raised by the polled loop in
  no state at all (log entry 11). Safe. -/
  | pollPassesExhausted
deriving DecidableEq, Repr

/-- The refusals: what the model gives no meaning (R14). -/
inductive Refusal where
  /-- An instruction without a meaning, raised by exec only. Safe. -/
  | notModelled (mnemonic : String)
  /-- A reserved command word; the hardware ignores it (R95, spec/93 U6; log entry 8). Raised by fetching. Safe. -/
  | reservedWord
  /-- A configuration that is not well formed (R11, spec/93 U5 and U7; log entry 12). Raised by fetching
  and by a lookup sample whose frequency leaves 0 to 2^32-1. Safe. -/
  | illFormedConfig
  /-- The schedule asks for a tick of a timer that is not armed: no schedule (R239, R278; log entry 9).
  Raised by fetching. Safe. -/
  | timerNotArmed
deriving DecidableEq, Repr

/-- A radio event: one completed call of `set_frequency_fast(hz)` (R124). -/
inductive RadioEvent where
  | freqFast (hz : Hz)
deriving DecidableEq, Repr

/-- One entry of the schedule: a command word the host issues or a tick (R100, R278). -/
inductive Event where
  | command (w : Word)
  | tick (v : Timer)
deriving DecidableEq, Repr

/-- Whether the schedule is a finite or an infinite sequence (R278): with its listed events taken, the host of a
finite one issues no further command, and that of an infinite one goes on (log entries 1, 2, 30). -/
inductive ScheduleKind where
  | finite | infinite
deriving DecidableEq, Repr

/-- The byte arrays TXBUF and APBUF, as (index, byte) cells. A byte that is not listed has never been
written since reset: its written mark is clear (R262). -/
abbrev Memory := List Host.Cell

/-- The whole state of the block (R20), then the model's own fields: the inputs of R278 and the values
returned by RDREG (R214, R277). -/
structure State where
  -- the coordinator (R21 to R23)
  mode        : Mode
  taArmed     : Bool
  tbArmed     : Bool
  taCmp       : Word
  tbCmp       : Word
  -- the sticky error bits (R24)
  errCnr      : Bool
  errBovr     : Bool
  errMode     : Bool
  -- the hand-off flags (R25, R26)
  txReady     : Bool
  txConsumed  : Bool
  apReady     : Bool
  apDone      : Bool
  -- the RTTY machine (R27 to R32)
  rstate      : RState
  rbitcnt     : BitVec 4
  rcur        : Byte
  rpause      : BitVec 16
  txidx       : Index
  txlen       : Index
  -- the APRS engines (R33 to R37)
  apFs        : Index
  apFe        : Index
  aidx        : Index
  abit        : BitVec 3
  atone       : Tone
  lcur        : Byte
  lstep       : Byte
  -- the buffers (R38, R39)
  txbuf       : Memory
  apbuf       : Memory
  -- the output history (R41)
  radioTrace  : List RadioEvent
  -- the model's own: the values RDREG has returned, oldest first (log entry 10)
  rdregValues : List Word
  -- the model's own: the inputs (log entries 1 to 4, 30)
  cfg         : Config
  schedule    : List Event
  scheduleKind : ScheduleKind
  draws       : List Bool
  drawCount   : Nat
  choiceCount : Nat
deriving DecidableEq, Repr

/-- The state right after reset, for a configuration (R46, R260): idle, nothing in flight, both buffers
never written, nothing scheduled. -/
def State.resetWith (c : Config) : State where
  mode        := .rttyInterrupt
  taArmed     := false
  tbArmed     := false
  taCmp       := 0
  tbCmp       := 0
  errCnr      := false
  errBovr     := false
  errMode     := false
  txReady     := false
  txConsumed  := true
  apReady     := false
  apDone      := true
  rstate      := .wait
  rbitcnt     := 0
  rcur        := 0
  rpause      := 0
  txidx       := 0
  txlen       := 0
  apFs        := 0
  apFe        := 0
  aidx        := 0
  abit        := 0
  atone       := .t1200
  lcur        := 0
  lstep       := 0
  txbuf       := []
  apbuf       := []
  radioTrace  := []
  rdregValues := []
  cfg         := c
  schedule    := []
  scheduleKind := .finite
  draws       := []
  drawCount   := 0
  choiceCount := 0

/-- The machine right after reset. The configuration it carries is a DESIGN CHOICE on which no statement
rests (log entry 4). -/
def State.reset : State := State.resetWith Config.vectors

/-- What one step or one meaning answers (R14). -/
abbrev Result := Host.Outcome State Fault Refusal

end Sys2Proof.Machine
end

