-- ==== Sys2Proof/Machine/Flags.lean ====
section
/-! DEFINITION. The flag computations: the error bits (spec/60_exceptions.md R230, R235, R236), the
hand-off pairs (spec/10_state.md R25, R26), and the two registers they are read back as (R45). -/

namespace Sys2Proof.Machine

/-- Error entry: raising an error kind is the single write of its sticky bit; nothing is saved, nothing
else changes and the rule goes on (R235). -/
def State.raise (s : State) (k : ErrorKind) : State :=
  match k with
  | .chipNotReady => { s with errCnr := true }
  | .bufferOverrun => { s with errBovr := true }
  | .modeConflict => { s with errMode := true }

/-- What stands in the place of a return from an exception: the host acknowledges error bits; a bit of the
mask that is 1 clears the error bit of that code (R215, R230, R236). -/
def State.clearErrors (s : State) (mask : BitVec 3) : State :=
  { s with
    errCnr := s.errCnr && !mask.getLsbD 0
    errBovr := s.errBovr && !mask.getLsbD 1
    errMode := s.errMode && !mask.getLsbD 2 }

/-- The buffer TXBUF is handed to the engine (R25). -/
def State.handOverTx (s : State) : State := { s with txReady := true, txConsumed := false }

/-- The buffer TXBUF is given back to the main context (R25). -/
def State.giveBackTx (s : State) : State := { s with txReady := false, txConsumed := true }

/-- The buffer APBUF is handed to the engine (R26). -/
def State.handOverAp (s : State) : State := { s with apReady := true, apDone := false }

/-- The buffer APBUF is given back to the main context (R26). -/
def State.giveBackAp (s : State) : State := { s with apReady := false, apDone := true }

/-- `release_all`: whatever buffer is in flight is given back (R201). -/
def State.releaseAll (s : State) : State :=
  { s with
    txReady := false
    txConsumed := s.txReady || s.txConsumed
    apReady := false
    apDone := s.apReady || s.apDone }

/-- STATUS, register 4 (R45). -/
def State.status (s : State) : BitVec 3 :=
  BitVec.ofBool s.errMode ++ BitVec.ofBool s.errBovr ++ BitVec.ofBool s.errCnr

/-- FLAGS, register 5 (R45). -/
def State.flags (s : State) : BitVec 4 :=
  BitVec.ofBool s.apDone ++ BitVec.ofBool s.apReady ++ BitVec.ofBool s.txConsumed
    ++ BitVec.ofBool s.txReady

/-- TCTRL, register 1 (R45). -/
def State.tctrl (s : State) : BitVec 2 := BitVec.ofBool s.tbArmed ++ BitVec.ofBool s.taArmed

end Sys2Proof.Machine
end

