-- ==== Sys2Proof/Machine/Operands.lean ====
section
/-! DEFINITION. The operand forms: symbols, tones, table samples and their scaling, the register numbers of
RDREG, and the deviation formula (spec/40_radio_port.md to 45_coordinator.md). -/

namespace Sys2Proof.Machine

/-! ### RTTY (R9, R151) -/

/-- `RTTY_NBITS` as the bit counter holds it (R28). -/
def dataBitCount : DataBits → BitVec 4
  | .seven => 7
  | .eight => 8

/-- `RTTY_NSTOP` as the bit counter holds it (R28). -/
def stopBitCount : StopBits → BitVec 4
  | .one => 1
  | .two => 2

/-- `sym(b)`: a 1 is a mark, a 0 is a space (R151). -/
def symbolHz (c : Config) (b : Bool) : Hz := if b then c.fRttyMark else c.fRttySpace

/-- The state START_RTTY leaves the RTTY machine in: PAUSE only when there is a pause to wait out (R208). -/
def startState (pauseTicks : BitVec 16) : RState := if pauseTicks = 0 then .startbit else .pause

/-! ### APRS tones (R172, R178, R186) -/

/-- The other tone. -/
def otherTone : Tone → Tone
  | .t1200 => .t2200
  | .t2200 => .t1200

/-- NRZI: a data bit 0 changes the tone, a 1 keeps it (R172). -/
def nrziTone (t : Tone) (b : Bool) : Tone := if b then t else otherTone t

/-- `tone_hz` (R178). -/
def toneHz (c : Config) : Tone → Hz
  | .t1200 => c.fAprs1200
  | .t2200 => c.fAprs2200

/-- The table step of a tone (R37, R186). -/
def toneStep (c : Config) : Tone → Byte
  | .t1200 => c.consts.step1200
  | .t2200 => c.consts.step2200

/-- `LUT_MULT_t` (R188). -/
def lutMult (c : Config) : Tone → Int
  | .t1200 => c.lutMult1200
  | .t2200 => c.lutMult2200

/-- `LUT_OFFS_t` (R188). -/
def lutOffs (c : Config) : Tone → Int
  | .t1200 => c.lutOffs1200
  | .t2200 => c.lutOffs2200

/-! ### The waveform table (R140 to R144) -/

/-- SINE, the 256 constant bytes of R141, sixteen a row. The source's own table may differ in single
entries (log entry 14). -/
def sineTable : List Byte :=
    [128, 131, 134, 137, 140, 144, 147, 150, 153, 156, 159, 162, 165, 168, 171, 174]
    ++ [177, 179, 182, 185, 188, 191, 193, 196, 199, 201, 204, 206, 209, 211, 213, 216]
    ++ [218, 220, 222, 224, 226, 228, 230, 232, 234, 235, 237, 239, 240, 241, 243, 244]
    ++ [245, 246, 248, 249, 250, 250, 251, 252, 253, 253, 254, 254, 254, 255, 255, 255]
    ++ [255, 255, 255, 255, 254, 254, 254, 253, 253, 252, 251, 250, 250, 249, 248, 246]
    ++ [245, 244, 243, 241, 240, 239, 237, 235, 234, 232, 230, 228, 226, 224, 222, 220]
    ++ [218, 216, 213, 211, 209, 206, 204, 201, 199, 196, 193, 191, 188, 185, 182, 179]
    ++ [177, 174, 171, 168, 165, 162, 159, 156, 153, 150, 147, 144, 140, 137, 134, 131]
    ++ [128, 125, 122, 119, 116, 112, 109, 106, 103, 100, 97, 94, 91, 88, 85, 82]
    ++ [79, 77, 74, 71, 68, 65, 63, 60, 57, 55, 52, 50, 47, 45, 43, 40]
    ++ [38, 36, 34, 32, 30, 28, 26, 24, 22, 21, 19, 17, 16, 15, 13, 12]
    ++ [11, 10, 8, 7, 6, 6, 5, 4, 3, 3, 2, 2, 2, 1, 1, 1]
    ++ [1, 1, 1, 1, 2, 2, 2, 3, 3, 4, 5, 6, 6, 7, 8, 10]
    ++ [11, 12, 13, 15, 16, 17, 19, 21, 22, 24, 26, 28, 30, 32, 34, 36]
    ++ [38, 40, 43, 45, 47, 50, 52, 55, 57, 60, 63, 65, 68, 71, 74, 77]
    ++ [79, 82, 85, 88, 91, 94, 97, 100, 103, 106, 109, 112, 116, 119, 122, 125]

/-- `sample(cursor)`: every 8-bit cursor is in range (R142). -/
def sample (cursor : Byte) : Byte := sineTable.getD cursor.toNat 0

/-- Advancing the cursor, modulo 256 (R144). -/
def advanceCursor (cursor step : Byte) : Byte := cursor + step

/-- `lut_hz(t, s) = F_APRS + LUT_MULT_t * s + LUT_OFFS_t`, in unbounded integers (R188). -/
def lutValue (c : Config) (t : Tone) (v : Byte) : Int := c.fAprs.toNat + lutMult c t * v.toNat + lutOffs c t

/-- The scaled sample as a frequency; none where it leaves 0 to 2^32-1, which a well-formed configuration
excludes (R11, R188). -/
def lutHz (c : Config) (t : Tone) (v : Byte) : Option Hz :=
  let x := lutValue c t v
  if 0 ≤ x ∧ x < 4294967296 then some (BitVec.ofNat 32 x.toNat) else none

/-! ### Registers by number (R45) -/

/-- ATONE as a number (R35, R99). -/
def toneBit : Tone → BitVec 1
  | .t1200 => 0
  | .t2200 => 1

/-- REG[n] zero-extended to 32 bits; 19 to 255 read as 0 (R45, R64, R214). -/
def State.reg (s : State) (n : BitVec 8) : Word :=
  match n.toNat with
  | 0 => s.mode.toBits.setWidth 32
  | 1 => s.tctrl.setWidth 32
  | 2 => s.taCmp
  | 3 => s.tbCmp
  | 4 => s.status.setWidth 32
  | 5 => s.flags.setWidth 32
  | 6 => s.rstate.toBits.setWidth 32
  | 7 => s.rbitcnt.setWidth 32
  | 8 => s.rcur.setWidth 32
  | 9 => s.rpause.setWidth 32
  | 10 => s.txidx.setWidth 32
  | 11 => s.txlen.setWidth 32
  | 12 => s.apFs.setWidth 32
  | 13 => s.apFe.setWidth 32
  | 14 => s.aidx.setWidth 32
  | 15 => s.abit.setWidth 32
  | 16 => (toneBit s.atone).setWidth 32
  | 17 => s.lcur.setWidth 32
  | 18 => s.lstep.setWidth 32
  | _ => 0

/-! ### The deviation formula (R128) -/

/-- `DEVCODE(deviation_Hz, ref_clock_Hz, OUTDIV)`, the exact integer floor, the product formed first; a
reference clock of 0 is outside the domain and is refused (R128). A pure function of the main context, used
by no tick. -/
def devCode (deviationHz refClockHz outdiv : Nat) : Option Nat :=
  if refClockHz = 0 then none else some ((524288 * outdiv * deviationHz) / (2 * refClockHz))

end Sys2Proof.Machine
end

