-- ==== Sys2Proof/Machine/Ops.lean ====
section
/-! DEFINITION. The shared operations over buffers, the radio port and the engine registers: the helpers the
rules name (`emit`, `release_all`, `reset_engines`, `stop_previous`, `rtty_setup`, `aprs_setup`,
`start_char`, `next_bit`, `rtty_complete`, `aprs_complete`). Error entry, `State.raise`, and its
acknowledgement, `State.clearErrors`, stand in Machine/Flags.lean. -/

namespace Sys2Proof.Machine

/-! ### Buffers (R60 to R62, R69 to R71, R262) -/

/-- What an unlisted index reads as: no value, since nothing has been written there (R262; log entry 6). -/
def Memory.unlisted : Option Byte := none

/-- The byte at an index, if one has been written. -/
def Memory.read : Memory → Nat → Option Byte
  | [], _ => Memory.unlisted
  | (a, b) :: m, i => if i = a then some b else Memory.read m i

/-- Store one byte, keeping the cells in rising order of index. -/
def Memory.write : Memory → Nat → Byte → Memory
  | [], i, v => [(i, v)]
  | (a, b) :: m, i, v =>
    if i < a then (i, v) :: (a, b) :: m
    else if i = a then (i, v) :: m
    else (a, b) :: Memory.write m i v

/-- The cells' indices rise strictly, all of them at least `lo`. -/
def Memory.risingFrom : Nat → Memory → Bool
  | _, [] => true
  | lo, (a, _) :: m => decide (lo ≤ a) && Memory.risingFrom (a + 1) m

/-- The canonical form: indices strictly rising (no cell can equal what an unlisted index reads as). -/
def Memory.wf (m : Memory) : Bool := Memory.risingFrom 0 m

/-- An engine's read of one byte: a fault at an index the buffer does not have and at a byte never written
(R61, R62, R262; log entries 6 and 7). -/
def readByte (cap : Nat) (m : Memory) (i : Index) : Except Fault Byte :=
  if i.toNat < cap then
    match m.read i.toNat with
    | some b => .ok b
    | none => .error .unwrittenBufferRead
  else .error .indexOutsideBuffer

/-- `MemRead(TXBUF, TXIDX, 1)` (R152). -/
def State.loadChar (s : State) : Except Fault Byte := readByte s.cfg.txCap s.txbuf s.txidx

/-- `MemRead(APBUF, AIDX, 1)` (R171). -/
def State.fetchByte (s : State) : Except Fault Byte := readByte s.cfg.apCap s.apbuf s.aidx

/-! ### The radio port (R125) -/

/-- `RadioReady()`: the answer to the next readiness poll, from the schedule's draws while there are any,
else a free value (R125, R278; log entry 3). -/
def State.radioReady (s : State) : Bool :=
  match s.draws with
  | d :: _ => d
  | [] => Config.radioReady s.drawCount

/-- `emit(hz)`: one readiness draw; ready, the event is appended; not ready, ERR_CNR is set and nothing is
appended; the caller goes on either way (R125, R231). -/
def State.emit (s : State) (hz : Hz) : State :=
  { s with
    radioTrace := if s.radioReady then s.radioTrace ++ [.freqFast hz] else s.radioTrace
    errCnr := s.errCnr || !s.radioReady
    draws := s.draws.tail
    drawCount := s.drawCount + 1 }

/-! ### Timers -/

/-- Whether a timer is armed (R22). -/
def State.armed (s : State) (v : Timer) : Bool :=
  match v with
  | .a => s.taArmed
  | .b => s.tbArmed

/-- A timer is armed: not idle (R22). -/
def State.anyArmed (s : State) : Bool := s.taArmed || s.tbArmed

/-- Both timers are stopped; a stopped timer produces no further tick (R205, R240). -/
def State.stopTimers (s : State) : State := { s with taArmed := false, tbArmed := false }

/-- Load timer A's compare value and arm it (R208, R210). -/
def State.armA (s : State) (cmp : Word) : State := { s with taCmp := cmp, taArmed := true }

/-- Load timer B's compare value and arm it (R211). -/
def State.armB (s : State) (cmp : Word) : State := { s with tbCmp := cmp, tbArmed := true }

/-! ### Stopping and resetting (R202, R203) -/

/-- `reset_engines`: both state machines in their idle position (R202). -/
def State.resetEngines (s : State) : State :=
  { s with
    rstate := .wait, rbitcnt := 0, rcur := 0, rpause := 0, txidx := 0
    aidx := 0, abit := 0, atone := .t1200, lcur := 0, lstep := 0 }

/-- Raise an error kind if a condition holds. -/
def State.raiseIf (s : State) (cond : Bool) (k : ErrorKind) : State := if cond then s.raise k else s

/-- `stop_previous`, the first step of every START: a timer still armed is a ModeConflict, and the old
transmission is stopped, released and reset all the same (R203, R233). -/
def State.stopPrevious (s : State) : State :=
  (s.raiseIf s.anyArmed .modeConflict).stopTimers.releaseAll.resetEngines

/-! ### Starting (R208, R209) -/

/-- Where the common part of a START ended: it returned, or the START goes on to arm. -/
inductive Setup where
  | returned (s : State)
  | proceed (s : State)

/-- `rtty_setup(length)`: steps 1 to 5 of R208. -/
def State.rttySetup (s : State) (length : Index) : Setup :=
  let s := s.stopPrevious
  if s.cfg.txCap < length.toNat then .returned (s.raise .bufferOverrun)
  else
    let s := { s with mode := .rttyInterrupt, txlen := length }
    if length = 0 then .returned s
    else
      .proceed { s.handOverTx with
        rpause := s.cfg.rttyPauseTicks
        rstate := startState s.cfg.rttyPauseTicks }

/-- `aprs_setup(flag_start, flag_end, m)` (R209). -/
def State.aprsSetup (s : State) (flagStart flagEnd : Index) (m : Mode) : Setup :=
  let s := s.stopPrevious
  if s.cfg.apCap < flagEnd.toNat then .returned (s.raise .bufferOverrun)
  else
    let s := { s with mode := m, apFs := flagStart, apFe := flagEnd, aidx := flagStart }
    if flagEnd ≤ flagStart then .returned s
    else .proceed s.handOverAp

/-! ### The RTTY engine's helpers (R152, R153) -/

/-- `start_char`: the start bit, and the load of the next byte (R152). -/
def State.startChar (s : State) : Result :=
  match s.loadChar with
  | .ok b =>
    .next { s.emit s.cfg.fRttySpace with
      rcur := b
      txidx := s.txidx + 1
      rbitcnt := dataBitCount s.cfg.rttyNbits
      rstate := .byte }
  | .error f => .fault f

/-- `rtty_complete` (R153). -/
def State.rttyComplete (s : State) : State :=
  { s.giveBackTx with rstate := .wait, rbitcnt := 0, taArmed := false }

/-! ### The APRS engines' helpers (R171, R174) -/

/-- The bit cursor advanced by one bit: bit 7 is followed by bit 0 of the next byte (R171). -/
def State.advanceBit (s : State) : State :=
  if s.abit = 7 then { s with abit := 0, aidx := s.aidx + 1 } else { s with abit := s.abit + 1 }

/-- `next_bit`: bit ABIT of APBUF[AIDX], least significant first, and the advanced cursor (R67, R171). -/
def State.nextBit (s : State) : Except Fault (Bool × State) :=
  match s.fetchByte with
  | .ok v => .ok (v.getLsbD s.abit.toNat, s.advanceBit)
  | .error f => .error f

/-- The tone now being sent (R35). -/
def State.setTone (s : State) (t : Tone) : State := { s with atone := t }

/-- `aprs_complete` (R174). -/
def State.aprsComplete (s : State) : State := s.giveBackAp.stopTimers

end Sys2Proof.Machine
end

