-- ==== Sys2Proof/Machine/Coordinator.lean ====
section
/-! DEFINITION. The coordinator's host commands and the tick entries that belong to no engine
(spec/45_coordinator.md). -/

namespace Sys2Proof.Machine

/-- NOP: nothing (R204). -/
def execNop (s : State) : Result := .next s

/-- STOP_TIMERS: the two armed bits and nothing else (R205). -/
def execStopTimers (s : State) : Result := .next s.stopTimers

/-- SET_MODE: rejected with ModeConflict while a timer is armed (R206). -/
def execSetMode (m : Mode) (s : State) : Result :=
  .next (if s.anyArmed then s.raise .modeConflict else { s with mode := m })

/-- ABORT: stop, release, reset both engines, and the reset mode; no error (R207). -/
def execAbort (s : State) : Result :=
  .next { s.stopTimers.releaseAll.resetEngines with mode := .rttyInterrupt }

/-- START_RTTY (R208). -/
def execStartRtty (length : Index) (s : State) : Result :=
  match s.rttySetup length with
  | .returned t => .next t
  | .proceed t => .next (t.armA t.cfg.consts.cmpRtty)

/-- START_APRS_GFSK (R210). -/
def execStartAprsGfsk (flagStart flagEnd : Index) (s : State) : Result :=
  match s.aprsSetup flagStart flagEnd .gfskSync with
  | .returned t => .next t
  | .proceed t => .next (t.armA t.cfg.consts.cmpGfsk)

/-- START_APRS_LOOKUP: both timers armed in the same step (R211). -/
def execStartAprsLookup (flagStart flagEnd : Index) (s : State) : Result :=
  match s.aprsSetup flagStart flagEnd .lookup with
  | .returned t => .next t
  | .proceed t =>
    .next (({ t with lcur := 0, lstep := toneStep t.cfg .t1200 }.armA t.cfg.consts.cmpLutBit).armB
      t.cfg.consts.cmpLutSample)

/-- WR_TXBUF: the bounds check first, then the hand-off rule (R212, R249). -/
def execWrTxbuf (idx : Index) (byte : Byte) (s : State) : Result :=
  if s.cfg.txCap ≤ idx.toNat then .next (s.raise .bufferOverrun)
  else if s.txReady then .fault .handoffViolation
  else .next { s with txbuf := s.txbuf.write idx.toNat byte }

/-- WR_APBUF: as WR_TXBUF, with APBUF (R213, R249). -/
def execWrApbuf (idx : Index) (byte : Byte) (s : State) : Result :=
  if s.cfg.apCap ≤ idx.toNat then .next (s.raise .bufferOverrun)
  else if s.apReady then .fault .handoffViolation
  else .next { s with apbuf := s.apbuf.write idx.toNat byte }

/-- RDREG: the value goes to the host and no register changes (R214; log entry 10). -/
def execRdreg (n : BitVec 8) (s : State) : Result :=
  .next { s with rdregValues := s.rdregValues ++ [s.reg n] }

/-- CLR_ERR (R215). -/
def execClrErr (mask : BitVec 3) (s : State) : Result := .next (s.clearErrors mask)

/-- TICKA.UNUSED: nothing; no engine is installed for this mode (R217). -/
def execTickaUnused (s : State) : Result := .next s

/-- TICKB.RTTY: nothing; the RTTY engine uses timer A only (R218). -/
def execTickbRtty (s : State) : Result := .next s

/-- TICKB.UNUSED: nothing (R219). -/
def execTickbUnused (s : State) : Result := .next s

end Sys2Proof.Machine
end

