-- ==== Sys2Proof/Machine/Gfsk.lean ====
section
/-! DEFINITION. The APRS synchronous-GFSK engine's tick entries (spec/43_aprs_gfsk.md). -/

namespace Sys2Proof.Machine

/-- TICKA.GFSK: one data bit, its tone emitted after the change; the first tick past the window completes
(R173). -/
def execTickaGfsk (s : State) : Result :=
  if s.apFe ≤ s.aidx then .next s.aprsComplete
  else
    match s.nextBit with
    | .ok (b, t) => .next ((t.setTone (nrziTone s.atone b)).emit (toneHz s.cfg (nrziTone s.atone b)))
    | .error f => .fault f

/-- TICKB.GFSK: nothing; timer B is not used in this mode (R175). -/
def execTickbGfsk (s : State) : Result := .next s

end Sys2Proof.Machine
end

