-- ==== Sys2Proof/Machine/Lookup.lean ====
section
/-! DEFINITION. The APRS lookup-table engine's tick entries (spec/44_aprs_lookup.md). -/

namespace Sys2Proof.Machine

/-- The tone transition a 0 bit makes: the other tone, its step, and the cursor back at 0 (R186). -/
def State.toneTransition (s : State) : State :=
  { s with atone := otherTone s.atone, lstep := toneStep s.cfg (otherTone s.atone), lcur := 0 }

/-- TICKA.LOOKUP: one data bit and no emission; the first tick past the window stops both timers (R186). -/
def execTickaLookup (s : State) : Result :=
  if s.apFe ≤ s.aidx then .next s.aprsComplete
  else
    match s.nextBit with
    | .ok (b, t) => .next (if b then t else t.toneTransition)
    | .error f => .fault f

/-- TICKB.LOOKUP: one sample as a frequency, taken at the cursor as it stands; the cursor advances whether
or not the radio took it (R187). -/
def execTickbLookup (s : State) : Result :=
  match lutHz s.cfg s.atone (sample s.lcur) with
  | some hz => .next { s.emit hz with lcur := advanceCursor s.lcur s.lstep }
  | none => .refused .illFormedConfig

end Sys2Proof.Machine
end

