-- ==== Sys2Proof/Machine/Rtty.lean ====
section
/-! DEFINITION. The RTTY engine: the six tick entries and the polled variant (spec/42_rtty_engine.md). -/

namespace Sys2Proof.Machine

/-- The work of PAUSE: count down, and leave for STARTBIT on the last tick (R154). -/
def State.rttyPause (s : State) : State :=
  if s.rpause ≤ 1 then { s with rpause := 0, rstate := .startbit } else { s with rpause := s.rpause - 1 }

/-- The work STARTBIT and RELOAD share: a start bit if a byte is left, else completion; the bounds test
comes before the emission (R155, R158). -/
def State.rttyCharOrDone (s : State) : Result :=
  if s.txidx < s.txlen then s.startChar else .next s.rttyComplete

/-- The work of BYTE: send bit 0 of RCUR, shift right with zero fill, count (R156). -/
def State.rttyByte (s : State) : State :=
  let t := { s.emit (symbolHz s.cfg (s.rcur.getLsbD 0)) with rcur := s.rcur >>> 1 }
  if s.rbitcnt ≤ 1 then { t with rstate := .stopbit, rbitcnt := stopBitCount s.cfg.rttyNstop }
  else { t with rbitcnt := s.rbitcnt - 1 }

/-- The work of STOPBIT: a mark on the character's first stop tick, then count (R157). -/
def State.rttyStop (s : State) : State :=
  let t := if s.rbitcnt = stopBitCount s.cfg.rttyNstop then s.emit s.cfg.fRttyMark else s
  if s.rbitcnt ≤ 1 then { t with rbitcnt := 0, rstate := .reload } else { t with rbitcnt := s.rbitcnt - 1 }

/-- TICKA.RTTY.PAUSE (R154). -/
def execTickaRttyPause (s : State) : Result := .next s.rttyPause

/-- TICKA.RTTY.STARTBIT (R155). -/
def execTickaRttyStartbit (s : State) : Result := s.rttyCharOrDone

/-- TICKA.RTTY.BYTE (R156). -/
def execTickaRttyByte (s : State) : Result := .next s.rttyByte

/-- TICKA.RTTY.STOPBIT (R157). -/
def execTickaRttyStopbit (s : State) : Result := .next s.rttyStop

/-- TICKA.RTTY.RELOAD (R158). -/
def execTickaRttyReload (s : State) : Result := s.rttyCharOrDone

/-- TICKA.RTTY.WAIT: nothing (R159). -/
def execTickaRttyWait (s : State) : Result := .next s

/-- The TICKA.RTTY rule selected by RSTATE (R150, R162). -/
def State.rttyPass (s : State) : Result :=
  match s.rstate with
  | .pause => execTickaRttyPause s
  | .startbit => execTickaRttyStartbit s
  | .byte => execTickaRttyByte s
  | .stopbit => execTickaRttyStopbit s
  | .reload => execTickaRttyReload s
  | .wait => execTickaRttyWait s

/-- The passes of a transmission of `length` bytes: `p + n * (1 + NBITS + NSTOP) + 1` (R160, R275). -/
def rttyPasses (c : Config) (length : Index) : Nat :=
  c.rttyPauseTicks.toNat
    + length.toNat * (1 + (dataBitCount c.rttyNbits).toNat + (stopBitCount c.rttyNstop).toNat) + 1

/-- `while RSTATE != WAIT do` the selected rule (R162), with the number of passes as fuel (log entry 11). -/
def pollLoop : Nat → State → Result
  | 0, s => if s.rstate = .wait then .next s else .fault .pollPassesExhausted
  | n + 1, s =>
    if s.rstate = .wait then .next s
    else
      match s.rttyPass with
      | .next t => pollLoop n t
      | .fault f => .fault f
      | .refused r => .refused r

/-- TX_RTTY_POLLED: the whole transmission in one atomic command of the main context, no timer armed
(R72, R162). -/
def execTxRttyPolled (length : Index) (s : State) : Result :=
  match s.rttySetup length with
  | .returned t => .next t
  | .proceed t => pollLoop (rttyPasses s.cfg length) t

end Sys2Proof.Machine
end

