-- ==== Sys2Proof/Machine/Dispatch.lean ====
section
/-! DEFINITION. The meaning of every operation, one arm per row of spec/opcode_table.json. -/

namespace Sys2Proof.Machine

def exec (i : Instr) (s : State) : Host.Outcome State Fault Refusal :=
  match i with
  | .nop => Sys2Proof.Machine.execNop s
  | .stopTimers => Sys2Proof.Machine.execStopTimers s
  | .setMode mode => Sys2Proof.Machine.execSetMode mode s
  | .abort => Sys2Proof.Machine.execAbort s
  | .startRtty length => Sys2Proof.Machine.execStartRtty length s
  | .txRttyPolled length => Sys2Proof.Machine.execTxRttyPolled length s
  | .startAprsGfsk flagStart flagEnd => Sys2Proof.Machine.execStartAprsGfsk flagStart flagEnd s
  | .startAprsLookup flagStart flagEnd => Sys2Proof.Machine.execStartAprsLookup flagStart flagEnd s
  | .wrTxbuf idx byte => Sys2Proof.Machine.execWrTxbuf idx byte s
  | .wrApbuf idx byte => Sys2Proof.Machine.execWrApbuf idx byte s
  | .rdreg n => Sys2Proof.Machine.execRdreg n s
  | .clrErr mask => Sys2Proof.Machine.execClrErr mask s
  | .tickaRttyPause => Sys2Proof.Machine.execTickaRttyPause s
  | .tickaRttyStartbit => Sys2Proof.Machine.execTickaRttyStartbit s
  | .tickaRttyByte => Sys2Proof.Machine.execTickaRttyByte s
  | .tickaRttyStopbit => Sys2Proof.Machine.execTickaRttyStopbit s
  | .tickaRttyReload => Sys2Proof.Machine.execTickaRttyReload s
  | .tickaRttyWait => Sys2Proof.Machine.execTickaRttyWait s
  | .tickaGfsk => Sys2Proof.Machine.execTickaGfsk s
  | .tickaUnused => Sys2Proof.Machine.execTickaUnused s
  | .tickaLookup => Sys2Proof.Machine.execTickaLookup s
  | .tickbRtty => Sys2Proof.Machine.execTickbRtty s
  | .tickbGfsk => Sys2Proof.Machine.execTickbGfsk s
  | .tickbUnused => Sys2Proof.Machine.execTickbUnused s
  | .tickbLookup => Sys2Proof.Machine.execTickbLookup s

end Sys2Proof.Machine
end

