-- ==== Sys2Proof/WellFormed.lean ====
section
/-! DEFINITION. When a configuration is well formed (spec/00_scope.md R11, with the ranges of R9). The
operands of an instruction have exactly the widths of R91 and every value of them is legal (R94), so every
term of Instr is well formed by its type and there is nothing to check on it. -/

namespace Sys2Proof

/-- A buffer capacity is in 1 to 4095 (R9, R11). -/
def capacityOk (n : Nat) : Bool := decide (1 ≤ n) && decide (n ≤ 4095)

/-- A table step is in 1 to 255; the byte type gives the upper bound (R9, R11). -/
def stepOk (v : Byte) : Bool := decide (v ≠ 0)

/-- A frequency in unbounded integers lies in 0 to 2^32-1 (R11, R12). -/
def hzInRange (v : Int) : Bool := decide (0 ≤ v) && decide (v < 4294967296)

/-- The lookup scaling of one tone stays in range for every sample 1 to 255 (R11). The form is linear in
the sample, so its two ends decide it (DEDUCED; Laws: `lutScaleOk_iff`). -/
def lutScaleOk (carrier mult offs : Int) : Bool :=
  hzInRange (carrier + mult * 1 + offs) && hzInRange (carrier + mult * 255 + offs)

/-- R11, with the range of `N_CTS_ISR` from R9 (log entry 12). The ranges of `RTTY_NBITS`, `RTTY_NSTOP`,
`RTTY_PAUSE_TICKS`, the compare values and the frequencies hold by the types of Config. -/
def Config.wellFormed (c : Config) : Bool :=
  capacityOk c.txCap && capacityOk c.apCap
    && stepOk c.consts.step1200 && stepOk c.consts.step2200
    && lutScaleOk c.fAprs.toNat c.lutMult1200 c.lutOffs1200
    && lutScaleOk c.fAprs.toNat c.lutMult2200 c.lutOffs2200
    && decide (1 ≤ c.nCtsIsr)

end Sys2Proof
end

