-- ==== Sys2Proof/Machine/Fetch.lean ====
section
/-! DEFINITION. What happens next: the block fetches no instructions; the next operation comes from the
schedule of host commands and ticks, finite or infinite: its listed events, then what follows them
(spec/70_reset_and_hazards.md R274, R278; spec/60_exceptions.md R239 to R241). -/

namespace Sys2Proof.Machine

/-- What the next step is: an operation in the state it runs in, nothing at all (the block is idle and the
host silent), or a refusal. -/
inductive Fetched where
  | run (i : Instr) (s : State)
  | idle
  | stop (r : Refusal)

/-- A place in the order of the agents' steps: who steps before the next turn of a timer, and that turn's
number. -/
structure Turn where
  ahead : List Agent
  count : Nat
deriving DecidableEq, Repr

/-- The timer whose turn has a number: the two take turns. -/
def turnTimer (n : Nat) : Timer := if n % 2 = 0 then .a else .b

/-- Who steps at a place in the order. -/
def Turn.agent (u : Turn) : Agent :=
  match u.ahead with
  | g :: _ => g
  | [] => .timer (turnTimer u.count)

/-- The place after. -/
def Turn.next (u : Turn) : Turn :=
  match u.ahead with
  | _ :: rest => { u with ahead := rest }
  | [] => { ahead := Config.before (u.count + 1), count := u.count + 1 }

/-- Place number `n` of the order. -/
def turnAt : Nat → Turn
  | 0 => { ahead := Config.before 0, count := 0 }
  | n + 1 => (turnAt n).next

/-- Who steps at choice number `n`: a free order in which each timer's turn comes again and again, so that an
armed timer's tick eventually occurs (R241, R274; log entry 2). -/
def agentAt (n : Nat) : Agent := (turnAt n).agent

/-- With a finite schedule exhausted the host issues no further command, and an armed timer ticks; with both
armed the order is free, and fair (R240, R241, R274; log entry 2). -/
def State.silentEvent (s : State) : Option Event :=
  match s.taArmed, s.tbArmed with
  | false, false => none
  | true, false => some (.tick .a)
  | false, true => some (.tick .b)
  | true, true => some (.tick (if agentAt s.choiceCount = .timer .b then .b else .a))

/-- The next event of an infinite schedule beyond its listed events: the tick of the timer whose step it is, if
it is armed, else the host's next command, a free value (R241, R274, R278; log entries 2 and 30). -/
def State.freeEvent (s : State) : Event :=
  match agentAt s.choiceCount with
  | .timer v => if s.armed v then .tick v else .command (Config.hostWord s.choiceCount)
  | .host => .command (Config.hostWord s.choiceCount)

/-- The next event: the schedule's first listed one, else what follows by its kind (R278). -/
def State.nextEvent (s : State) : Option Event :=
  match s.schedule, s.scheduleKind with
  | e :: _, _ => some e
  | [], .finite => s.silentEvent
  | [], .infinite => some s.freeEvent

/-- The state after the event has been taken from the schedule, or the choice from the free values. -/
def State.consumeEvent (s : State) : State :=
  match s.schedule with
  | _ :: rest => { s with schedule := rest }
  | [] => { s with choiceCount := s.choiceCount + 1 }

/-- The operation an event performs: the command a word decodes to, or the dispatch entry of a tick of an
armed timer under MODE and RSTATE as they stand (R93, R216, R239). -/
def State.operationOf (s : State) : Event → Except Refusal Instr
  | .command w =>
    match decodeCommand w with
    | .ok i => .ok i
    | .error _ => .error .reservedWord
  | .tick v => if s.armed v then .ok (dispatch v s.mode s.rstate) else .error .timerNotArmed

/-- The next step. Only a well-formed configuration has a meaning (R11). -/
def State.fetch (s : State) : Fetched :=
  if s.cfg.wellFormed then
    match s.nextEvent with
    | none => .idle
    | some e =>
      match s.operationOf e with
      | .ok i => .run i s.consumeEvent
      | .error r => .stop r
  else .stop .illFormedConfig

/-- The value RSTATE takes for a tick with a key to be dispatched: the key's own where RSTATE takes part in
the selection, else RSTATE as it stands; none for the two keys that select nothing (R96 to R98). -/
def State.placedRState (s : State) (k : BitVec 6) : Option RState :=
  if keyUsesRState k then RState.ofBits (k.extractLsb' 0 3) else some s.rstate

/-- Place a tick so that the very next step dispatches on the key: MODE, RSTATE where it takes part in the
selection, the timer's armed bit, and the tick at the head of the schedule (log entry 1). The keys `0 00 110`
and `0 00 111` select nothing and no state has them (R98): DESIGN CHOICE, nothing is placed and the state is
left as it is (log entry 15). -/
def State.placeTick (s : State) (k : BitVec 6) : State :=
  match s.placedRState k with
  | none => s
  | some rs =>
    { s with
      mode := keyMode k
      rstate := rs
      taArmed := s.taArmed || decide (keyTimer k = .a)
      tbArmed := s.tbArmed || decide (keyTimer k = .b)
      schedule := .tick (keyTimer k) :: s.schedule }

/-- Place an operation's encoding as the next event. -/
def State.placeNext (s : State) : Encoding → State
  | .command w => { s with schedule := .command w :: s.schedule }
  | .key k => s.placeTick k

end Sys2Proof.Machine
end

