-- ==== Sys2Proof/Machine/Step.lean ====
section
/-! DEFINITION. One step of the machine, and the placing of an instruction where the next step takes it. -/

namespace Sys2Proof.Machine

/-- One atomic step (R72): a host command or a tick. An idle block with a silent host stays as it is (R274). -/
def step (s : State) : Host.Outcome State Fault Refusal :=
  match s.fetch with
  | .run i t => exec i t
  | .idle => .next s
  | .stop r => .refused r

/-- `s` with the encoded instruction placed as the next event; unchanged where `w` is no encoding, and where
it is one of the two keys that select nothing (R98; log entries 1, 15). A reserved command word is placed, and
the step refuses it (R95; log entry 8). -/
def State.withFetchWord (s : State) (nbits w : Nat) : State :=
  match encodingOfTableWord nbits w with
  | some e => s.placeNext e
  | none => s

end Sys2Proof.Machine
end

