-- ==== Sys2Proof/Machine/HostCalls.lean ====
section
/-! DEFINITION. The schedule's pseudo-operations (spec/30_encoding.md R100, R101) as the events they expand
to, and the host's polling of the completion flags (R244). No step of the machine uses them. -/

namespace Sys2Proof.Machine

/-- The event an operation is scheduled by: its command word, or the tick of its vector. -/
def eventOf (i : Instr) : Event :=
  match encode i with
  | .command w => .command w
  | .key k => .tick (keyTimer k)

/-- The indices a buffer write can name: 0 to 4095, the values of field `a` (R91, R94). -/
def indexCount : Nat := 4096

/-- The writes of `load_tx b0, b1, ...`, from an index on, every index below 4096 (R101). -/
def loadTxFrom : Nat → List Byte → List Event
  | _, [] => []
  | i, b :: bs => eventOf (.wrTxbuf (BitVec.ofNat 12 i) b) :: loadTxFrom (i + 1) bs

/-- The writes of `load_ap b0, b1, ...`, from an index on, every index below 4096 (R101). -/
def loadApFrom : Nat → List Byte → List Event
  | _, [] => []
  | i, b :: bs => eventOf (.wrApbuf (BitVec.ofNat 12 i) b) :: loadApFrom (i + 1) bs

/-- `load_tx b0, b1, ...` (R101). No command names an index above 4095, so R101 gives a longer load no
expansion: DESIGN CHOICE, it has none here either (log entry 29). -/
def loadTx (bytes : List Byte) : Option (List Event) :=
  if bytes.length ≤ indexCount then some (loadTxFrom 0 bytes) else none

/-- `load_ap b0, b1, ...` (R101); DESIGN CHOICE: no expansion beyond 4096 bytes, as for `load_tx` (log entry
29). -/
def loadAp (bytes : List Byte) : Option (List Event) :=
  if bytes.length ≤ indexCount then some (loadApFrom 0 bytes) else none

/-- The source's `start_rtty(buffer, length)`: load, then start (R101). -/
def callStartRtty (buffer : List Byte) (length : Index) : Option (List Event) :=
  (loadTx buffer).map (· ++ [eventOf (.startRtty length)])

/-- The source's `start_aprs_gfsk(packet, flag_start, flag_end)` (R101). -/
def callStartAprsGfsk (packet : List Byte) (flagStart flagEnd : Index) : Option (List Event) :=
  (loadAp packet).map (· ++ [eventOf (.startAprsGfsk flagStart flagEnd)])

/-- The source's `start_aprs_lookup(packet, flag_start, flag_end)` (R101). -/
def callStartAprsLookup (packet : List Byte) (flagStart flagEnd : Index) : Option (List Event) :=
  (loadAp packet).map (· ++ [eventOf (.startAprsLookup flagStart flagEnd)])

/-- One poll of `wait_tx` and of `wait_ap`: `rdreg 5` (R101). -/
def pollFlags : Event := eventOf (.rdreg 5)

/-- `wait_tx` ends on this value of `rdreg 5`: bit 1, TX_CONSUMED, is 1 (R101). -/
def waitTxEnds (flags : Word) : Bool := flags.getLsbD 1

/-- `wait_ap` ends on this value of `rdreg 5`: bit 3, AP_DONE, is 1 (R101). -/
def waitApEnds (flags : Word) : Bool := flags.getLsbD 3

end Sys2Proof.Machine
end

