-- ==== Sys2Proof/Safety.lean ====
section
/-! DEFINITION. The terms claims are stated in: the invariants of the machine, what it means that a group of
fields is unchanged, the parts of the state that only report, and the emissions a transmission is expected
to make. -/

namespace Sys2Proof.Machine

/-! ### Invariants -/

/-- R44, the invariants (a) to (g) of every reachable state. -/
structure State.Inv (s : State) : Prop where
  /-- (a) -/
  txPair : s.txConsumed = !s.txReady
  /-- (a) -/
  apPair : s.apDone = !s.apReady
  /-- (b) -/
  oneInFlight : (s.txReady && s.apReady) = false
  /-- (c) -/
  armedA : s.taArmed = true → (s.txReady || s.apReady) = true
  /-- (c) -/
  armedB : s.tbArmed = true → s.mode = .lookup ∧ s.taArmed = true ∧ s.apReady = true
  /-- (d) -/
  runningRtty : s.taArmed = true → s.mode = .rttyInterrupt →
    s.txReady = true ∧ s.rstate ≠ .wait ∧ s.txidx ≤ s.txlen ∧ s.txlen.toNat ≤ s.cfg.txCap
  /-- (d) -/
  runningAprs : s.taArmed = true → s.mode = .gfskSync ∨ s.mode = .lookup →
    s.apReady = true ∧ s.apFs ≤ s.aidx ∧ s.aidx ≤ s.apFe ∧ s.apFe.toNat ≤ s.cfg.apCap
  /-- (e) -/
  unusedIdle : s.mode = .unused → s.anyArmed = false
  /-- (f) -/
  countByte : s.rstate = .byte → 1 ≤ s.rbitcnt ∧ s.rbitcnt ≤ dataBitCount s.cfg.rttyNbits
  /-- (f) -/
  countStop : s.rstate = .stopbit → 1 ≤ s.rbitcnt ∧ s.rbitcnt ≤ stopBitCount s.cfg.rttyNstop
  /-- (f) -/
  countElse : s.rstate ≠ .byte → s.rstate ≠ .stopbit → s.rbitcnt = 0
  /-- (g) -/
  loaded : s.rstate = .byte ∨ s.rstate = .stopbit ∨ s.rstate = .reload → 1 ≤ s.txidx

/-- Every listed cell of a buffer lies inside its capacity. -/
def Memory.within (cap : Nat) (m : Memory) : Bool := m.all fun p => decide (p.1 < cap)

/-- Both buffers are in their canonical form and hold only indices they have (R61, R62). -/
def State.buffersOk (s : State) : Bool :=
  s.txbuf.wf && s.apbuf.wf && s.txbuf.within s.cfg.txCap && s.apbuf.within s.cfg.apCap

/-- The stored extents are within the capacities (R32, R33, R70). -/
def State.extentsOk (s : State) : Bool :=
  decide (s.txlen.toNat ≤ s.cfg.txCap) && decide (s.apFe.toNat ≤ s.cfg.apCap)

/-- While lookup mode runs LSTEP is the step of the tone being sent (R37). -/
def State.stepFollowsTone (s : State) : Prop := s.tbArmed = true → s.lstep = toneStep s.cfg s.atone

/-! ### Runs -/

/-- An infinite run: each state is the step of the one before. -/
def IsRun (r : Nat → State) : Prop := ∀ n, step (r n) = .next (r (n + 1))

/-- An infinite run under any schedule at all, finite or infinite (R278): between two steps further events may
join the listed ones. An infinite sequence of events is one that gives each step its event; a run without such
feeding is an `IsRun`. -/
def FedRun (r : Nat → State) : Prop :=
  ∀ n, ∃ (t : State) (more : List Event),
    step (r n) = .next t ∧ r (n + 1) = { t with schedule := t.schedule ++ more }

/-- R274, fairness of a run: while a timer stays armed, a tick of it eventually occurs. -/
def FairRun (r : Nat → State) : Prop :=
  ∀ (v : Timer) (n : Nat), (∀ m, n ≤ m → (r m).armed v = true) →
    ∃ m, n ≤ m ∧ (r m).nextEvent = some (.tick v)

/-- R274, the end of a run: both timers are stopped and the host issues no further command. -/
def State.ended (s : State) : Prop :=
  s.taArmed = false ∧ s.tbArmed = false ∧ s.schedule = [] ∧ s.scheduleKind = .finite

/-- The commands R274 allows while a transmission runs: RDREG, CLR_ERR, NOP and the buffer writes. -/
def leavesTransmission : Instr → Prop
  | .nop | .rdreg _ | .clrErr _ | .wrTxbuf _ _ | .wrApbuf _ _ => True
  | _ => False

/-- The next event is no host command but one that R274 allows while a transmission runs. -/
def State.nextLeavesTransmission (s : State) : Prop :=
  ∀ w i, s.nextEvent = some (.command w) → decodeCommand w = .ok i → leavesTransmission i

/-- The tick entries of the engine a START command selects by its mode (R97). -/
def engineEntries : Mode → List Instr
  | .rttyInterrupt => [.tickaRttyPause, .tickaRttyStartbit, .tickaRttyByte, .tickaRttyStopbit,
      .tickaRttyReload, .tickaRttyWait]
  | .gfskSync => [.tickaGfsk]
  | .lookup => [.tickaLookup, .tickbLookup]
  | .unused => []

/-- The answer to the readiness poll `k` emissions on from a state: the schedule's while it has one, else the
free value (R125, R278; log entry 3). -/
def State.answerAt (s : State) (k : Nat) : Bool :=
  match s.draws[k]? with
  | some d => d
  | none => Config.radioReady (s.drawCount + k)

/-! ### What is left unchanged -/

/-- The armed bits and the compare values. -/
def sameTimers (s t : State) : Prop :=
  t.taArmed = s.taArmed ∧ t.tbArmed = s.tbArmed ∧ t.taCmp = s.taCmp ∧ t.tbCmp = s.tbCmp

/-- The error bits. -/
def sameErrors (s t : State) : Prop :=
  t.errCnr = s.errCnr ∧ t.errBovr = s.errBovr ∧ t.errMode = s.errMode

/-- The hand-off flags. -/
def sameFlags (s t : State) : Prop :=
  t.txReady = s.txReady ∧ t.txConsumed = s.txConsumed ∧ t.apReady = s.apReady ∧ t.apDone = s.apDone

/-- The RTTY machine's registers, but for TXLEN. -/
def sameRtty (s t : State) : Prop :=
  t.rstate = s.rstate ∧ t.rbitcnt = s.rbitcnt ∧ t.rcur = s.rcur ∧ t.rpause = s.rpause
    ∧ t.txidx = s.txidx

/-- The buffer descriptors. -/
def sameDescriptors (s t : State) : Prop := t.txlen = s.txlen ∧ t.apFs = s.apFs ∧ t.apFe = s.apFe

/-- The APRS bit cursor and tone, and the lookup cursor and step. -/
def sameAprs (s t : State) : Prop :=
  t.aidx = s.aidx ∧ t.abit = s.abit ∧ t.atone = s.atone ∧ t.lcur = s.lcur ∧ t.lstep = s.lstep

/-- Every byte of both buffers reads as before. -/
def sameBuffers (s t : State) : Prop :=
  ∀ i, t.txbuf.read i = s.txbuf.read i ∧ t.apbuf.read i = s.apbuf.read i

/-- The output history and the values RDREG returned. -/
def sameOutputs (s t : State) : Prop := t.radioTrace = s.radioTrace ∧ t.rdregValues = s.rdregValues

/-- The configuration, the schedule and the choices taken from it, but for the readiness draws. -/
def sameHost (s t : State) : Prop :=
  t.cfg = s.cfg ∧ t.schedule = s.schedule ∧ t.scheduleKind = s.scheduleKind
    ∧ t.choiceCount = s.choiceCount

/-- The readiness draws still to come: no emission was attempted. -/
def sameDraws (s t : State) : Prop := t.draws = s.draws ∧ t.drawCount = s.drawCount

/-- What one `emit` leaves (R125): the event appended or ERR_CNR set, as the draw says, and one draw used. -/
def emitted (s t : State) (hz : Hz) : Prop :=
  t.radioTrace = (if s.radioReady = true then s.radioTrace ++ [RadioEvent.freqFast hz] else s.radioTrace)
    ∧ t.errCnr = (if s.radioReady = true then s.errCnr else true)
    ∧ t.draws = s.draws.tail ∧ t.drawCount = s.drawCount + 1

/-- No `emit` was called. -/
def notEmitted (s t : State) : Prop :=
  t.radioTrace = s.radioTrace ∧ t.errCnr = s.errCnr ∧ sameDraws s t

/-- What every START leaves of the previous transmission (R201 to R203): both buffers given back, both
engines' registers at idle, ERR_MODE set if a timer was armed. -/
def previousStopped (s t : State) : Prop :=
  t.errMode = (s.errMode || s.anyArmed) ∧ t.errCnr = s.errCnr
    ∧ t.rbitcnt = 0 ∧ t.rcur = 0 ∧ t.txidx = 0 ∧ t.abit = 0 ∧ t.atone = .t1200 ∧ t.lcur = 0

/-- TXBUF is given back if it was in flight (R201). -/
def txReleased (s t : State) : Prop := t.txReady = false ∧ t.txConsumed = (s.txReady || s.txConsumed)

/-- APBUF is given back if it was in flight (R201). -/
def apReleased (s t : State) : Prop := t.apReady = false ∧ t.apDone = (s.apReady || s.apDone)

/-- What a command of the main context that emits nothing and writes no buffer leaves unchanged. -/
def sameData (s t : State) : Prop :=
  sameBuffers s t ∧ sameOutputs s t ∧ sameHost s t ∧ sameDraws s t

/-! ### The parts that only report -/

/-- An outcome with its next state seen through a function. -/
def mapNext (f : State → State) : Result → Result
  | .next t => .next (f t)
  | .fault e => .fault e
  | .refused r => .refused r

/-- The state without what the readiness answers decide: RADIO_TRACE, ERR_CNR and the draws themselves. -/
def State.eraseRadio (s : State) : State :=
  { s with radioTrace := [], errCnr := false, draws := [], drawCount := 0 }

/-- The state without the three error bits. -/
def State.eraseErrors (s : State) : State :=
  { s with errCnr := false, errBovr := false, errMode := false }

/-! ### Words and keys -/

/-- The reserved opcodes and operand fields of R95: an unassigned opcode, or a non-zero bit in a position R92
requires to be zero. -/
def reservedFields (op rest : Nat) : Prop :=
  op ∉ [0x00, 0x01, 0x02, 0x03, 0x10, 0x11, 0x20, 0x21, 0x30, 0x31, 0x40, 0x41]
    ∨ op ∈ [0x00, 0x01, 0x03] ∧ rest ≠ 0
    ∨ op = 0x02 ∧ 4 ≤ rest
    ∨ op ∈ [0x10, 0x11] ∧ 4096 ≤ rest
    ∨ op ∈ [0x30, 0x31] ∧ rest / 256 % 16 ≠ 0
    ∨ op = 0x40 ∧ 256 ≤ rest
    ∨ op = 0x41 ∧ 8 ≤ rest

/-- The reserved command words, the word read as a number: its top byte, and the 24 bits below. -/
def reservedWord (w : Word) : Prop := reservedFields (w.toNat / 16777216) (w.toNat % 16777216)

/-- The host commands: the operations that have a command word (R3, R92). -/
def isCommand (i : Instr) : Bool :=
  match encode i with
  | .command _ => true
  | .key _ => false

/-! ### Expected emissions -/

/-- The number of data bits of a character. -/
def bitsPerChar (c : Config) : Nat := (dataBitCount c.rttyNbits).toNat

/-- The number of stop-bit durations of a character. -/
def stopsPerChar (c : Config) : Nat := (stopBitCount c.rttyNstop).toNat

/-- The events of one character: a space, the data bits least significant first, a mark (R160). -/
def charEvents (c : Config) (b : Byte) : List RadioEvent :=
  [.freqFast c.fRttySpace]
    ++ (List.range (bitsPerChar c)).map (fun k => .freqFast (symbolHz c (b.getLsbD k)))
    ++ [.freqFast c.fRttyMark]

/-- The bits of a byte, least significant first (R67). -/
def bitsOf (b : Byte) : List Bool := (List.range 8).map fun k => b.getLsbD k

/-- The tones after each bit of a bit string, from a starting tone (R172). -/
def nrziTones : Tone → List Bool → List Tone
  | _, [] => []
  | t, b :: bs => nrziTone t b :: nrziTones (nrziTone t b) bs

/-- The frequencies of `k` successive samples from a cursor (R190). -/
def sampleValues (c : Config) (t : Tone) (cursor step : Byte) : Nat → List Int
  | 0 => []
  | k + 1 => lutValue c t (sample cursor) :: sampleValues c t (advanceCursor cursor step) step k

/-- The frequency of a radio event, as an integer. -/
def RadioEvent.hzInt : RadioEvent → Int
  | .freqFast hz => hz.toNat

end Sys2Proof.Machine
end

