-- ==== Sys2Proof/Certificates/Slice0/Obligations.lean ====
section
/-! DEFINITION. The statements for the provers, from the numbered rules of spec/. -/

open Sys2Proof Sys2Proof.Machine

/-! ### Encoding -/

/-- Every word spec/95 section 2.7 lists decodes to the command it gives, its reserved words are refused by the
reason it gives (that they are refused: log entry 8), its dispatch keys select the entries it names, and of the
64 keys exactly two select nothing (R98). -/
def Obligations.SpecWordsDecode : Prop :=
  decode (.command 0x00000000) = .ok .nop
    ∧ decode (.command 0x02000003) = .ok (.setMode .lookup)
    ∧ decode (.command 0x10000001) = .ok (.startRtty 1)
    ∧ decode (.command 0x1000014B) = .ok (.startRtty 331)
    ∧ decode (.command 0x11000001) = .ok (.txRttyPolled 1)
    ∧ decode (.command 0x20002012) = .ok (.startAprsGfsk 2 18)
    ∧ decode (.command 0x21001002) = .ok (.startAprsLookup 1 2)
    ∧ decode (.command 0x30001069) = .ok (.wrTxbuf 1 0x69)
    ∧ decode (.command 0x3101307E) = .ok (.wrApbuf 19 0x7E)
    ∧ decode (.command 0x40000005) = .ok (.rdreg 5)
    ∧ decode (.command 0x41000004) = .ok (.clrErr 4)
    ∧ decode (.key 0b000010) = .ok .tickaRttyByte
    ∧ decode (.key 0b001011) = .ok .tickaGfsk
    ∧ decode (.key 0b111101) = .ok .tickbLookup
    ∧ decode (.key 0b100000) = .ok .tickbRtty
    ∧ (∀ w ∈ [0x00000001, 0x02000004, 0x10001001, 0x30001169, 0x41000008],
        decode (.command w) = .error .mustBeZero)
    ∧ (∀ w ∈ [0x04000000, 0x12000000, 0x22000000, 0x32000000, 0x42000000, 0xFF000000],
        decode (.command w) = .error .unassignedOpcode)
    ∧ ∀ k : BitVec 6, decode (.key k) = .error .unusedKey ↔ k = 0b000110 ∨ k = 0b000111

/-- Decoding the encoding of any operation gives it back, at every value of every operand (R91 to R97). -/
def Obligations.DecodeOfEncodeIsIdentity : Prop := ∀ i : Instr, decode (encode i) = .ok i

/-- A command word the decoder accepts is exactly the encoding of what it decodes to: no bit is ignored
(R91, R93, R95). -/
def Obligations.AcceptedWordIsItsEncoding : Prop :=
  ∀ (w : Word) (i : Instr), decodeCommand w = .ok i → encode i = .command w

/-- R93: a word that matches a row decodes to the row's command, and no word matches two rows. That a word of no
row, which R95 calls reserved, is refused is the model's choice (log entry 8). -/
def Obligations.CommandRowsDecideDisjointly : Prop :=
  ∀ w : Word,
    (∀ r ∈ commandRows, w &&& r.mask = r.pattern → decodeCommand w = .ok (r.build w))
      ∧ (∀ r ∈ commandRows, ∀ q ∈ commandRows,
          w &&& r.mask = r.pattern → w &&& q.mask = q.pattern → r = q)
      ∧ ((∀ r ∈ commandRows, w &&& r.mask ≠ r.pattern) → ∃ e, decodeCommand w = .error e)

/-- R95 and spec/93 U6: with a well-formed configuration the next command word is refused as reserved
exactly when its opcode is unassigned or a must-be-zero bit is set, the word being read as a number. -/
def Obligations.ReservedWordsAndNoOthersAreRefused : Prop :=
  ∀ (s : State) (w : Word) (rest : List Event),
    s.cfg.wellFormed = true → s.schedule = .command w :: rest →
      (step s = .refused .reservedWord ↔ reservedWord w)

/-! ### Steps -/

/-- A step whose next event is a command word that decodes runs exactly that command, on the state with the
event taken from the schedule (R72, R90). -/
def Obligations.StepRunsScheduledCommand : Prop :=
  ∀ (s : State) (w : Word) (rest : List Event) (i : Instr),
    s.cfg.wellFormed = true → s.schedule = .command w :: rest → decodeCommand w = .ok i →
      step s = exec i { s with schedule := rest }

/-- A step whose next event is a tick of an armed timer runs the entry that the key of the vector, MODE and
RSTATE selects, on the state with the event taken from the schedule (R96, R97, R216). -/
def Obligations.StepRunsDispatchedTick : Prop :=
  ∀ (s : State) (v : Timer) (rest : List Event),
    s.cfg.wellFormed = true → s.schedule = .tick v :: rest → s.armed v = true →
      ∃ i, decodeKey (dispatchKey v s.mode s.rstate) = .ok i
        ∧ step s = exec i { s with schedule := rest }

/-- A tick of a timer that is not armed is never serviced (R239, R240); the model refuses a schedule that
asks for one (log entry 9). -/
def Obligations.UnarmedTickIsNotServiced : Prop :=
  ∀ (s : State) (v : Timer) (rest : List Event),
    s.cfg.wellFormed = true → s.schedule = .tick v :: rest → s.armed v = false →
      step s = .refused .timerNotArmed

/-- R274, R278. A finite schedule exhausted: with both timers stopped the state is stable, and else an armed timer
ticks. An infinite one beyond its listed events: a host command or a tick of an armed timer comes next (the order
and the commands are free: log entries 1, 2 and 30). Every infinite run is fair: while a timer stays armed, a tick
of it eventually occurs. Every infinite run of a finite schedule from a state with the invariants of R44 ends, in
one stable state. And under every fair schedule at all, from such a state, a transmission completes once no command
is issued but RDREG, CLR_ERR, NOP and buffer writes. -/
def Obligations.SilentHostStep : Prop :=
  (∀ s : State, s.cfg.wellFormed = true → s.schedule = [] → s.scheduleKind = .finite →
    (s.anyArmed = false → step s = .next s)
      ∧ (s.anyArmed = true → ∃ v i, s.armed v = true
          ∧ decodeKey (dispatchKey v s.mode s.rstate) = .ok i
          ∧ step s = exec i { s with choiceCount := s.choiceCount + 1 }))
    ∧ (∀ s : State, s.schedule = [] → s.scheduleKind = .infinite →
        ∃ e, s.nextEvent = some e ∧ ∀ v, e = .tick v → s.armed v = true)
    ∧ (∀ r : Nat → State, IsRun r → FairRun r)
    ∧ (∀ r : Nat → State, IsRun r → (r 0).Inv → (r 0).scheduleKind = .finite →
        ∃ n, (r n).ended ∧ ∀ m, n ≤ m → r m = r n)
    ∧ ∀ r : Nat → State, FedRun r → FairRun r → (r 0).Inv →
        ∀ n, (∀ m, n ≤ m → (r m).nextLeavesTransmission) → ∃ m, n ≤ m ∧ (r m).anyArmed = false

/-! ### Operations without effect, and the plain coordinator commands -/

/-- R204: the all-zero word selects NOP, and NOP leaves every state as it is; R159: key 0 00 101 selects
TICKA.RTTY.WAIT, which leaves every state as it is; so do the other four entries that do nothing (R175, R217,
R218, R219). -/
def Obligations.NoOperationEntriesChangeNothing : Prop :=
  decode (.command 0x00000000) = .ok .nop
    ∧ decode (.key 0b000101) = .ok .tickaRttyWait
    ∧ ∀ i ∈ [Instr.nop, .tickaRttyWait, .tickaUnused, .tickbRtty, .tickbGfsk, .tickbUnused],
      ∀ s : State, exec i s = .next s

/-- R205: STOP_TIMERS clears the two armed bits and leaves everything else. -/
def Obligations.StopTimersClearsOnlyArmedBits : Prop :=
  ∀ s : State, ∃ t, exec .stopTimers s = .next t
    ∧ t.taArmed = false ∧ t.tbArmed = false ∧ t.taCmp = s.taCmp ∧ t.tbCmp = s.tbCmp
    ∧ t.mode = s.mode ∧ sameErrors s t ∧ sameFlags s t ∧ sameRtty s t ∧ sameDescriptors s t
    ∧ sameAprs s t ∧ sameData s t

/-- R206: SET_MODE writes MODE when both timers are stopped; while one is armed it sets ERR_MODE and leaves
MODE; nothing else changes. -/
def Obligations.SetModeOnlyWhenIdle : Prop :=
  ∀ (m : Mode) (s : State), ∃ t, exec (.setMode m) s = .next t
    ∧ (s.taArmed = false ∧ s.tbArmed = false → t.mode = m ∧ sameErrors s t)
    ∧ (s.taArmed = true ∨ s.tbArmed = true → t.mode = s.mode ∧ t.errMode = true
        ∧ t.errCnr = s.errCnr ∧ t.errBovr = s.errBovr)
    ∧ sameTimers s t ∧ sameFlags s t ∧ sameRtty s t ∧ sameDescriptors s t ∧ sameAprs s t
    ∧ sameData s t

/-- R207: ABORT stops both timers, gives back the buffer in flight, resets both engines and MODE; the error
bits, the descriptors, the compare values, the buffers and the trace are unchanged. -/
def Obligations.AbortStopsReleasesAndResets : Prop :=
  ∀ s : State, ∃ t, exec .abort s = .next t
    ∧ t.taArmed = false ∧ t.tbArmed = false ∧ t.mode = .rttyInterrupt
    ∧ txReleased s t ∧ apReleased s t
    ∧ t.rstate = .wait ∧ t.rbitcnt = 0 ∧ t.rcur = 0 ∧ t.rpause = 0 ∧ t.txidx = 0
    ∧ t.aidx = 0 ∧ t.abit = 0 ∧ t.atone = .t1200 ∧ t.lcur = 0 ∧ t.lstep = 0
    ∧ sameErrors s t ∧ sameDescriptors s t ∧ t.taCmp = s.taCmp ∧ t.tbCmp = s.tbCmp ∧ sameData s t

/-! ### The START commands -/

/-- R208, an accepted length: the previous transmission is stopped, TXBUF handed over, the machine placed in
PAUSE or STARTBIT, timer A armed with `CMP_RTTY`; nothing is emitted. -/
def Obligations.StartRttyAccepted : Prop :=
  ∀ (n : Index) (s : State), n ≠ 0 → n.toNat ≤ s.cfg.txCap →
    ∃ t, exec (.startRtty n) s = .next t
      ∧ t.mode = .rttyInterrupt ∧ t.txlen = n ∧ t.txReady = true ∧ t.txConsumed = false
      ∧ t.rpause = s.cfg.rttyPauseTicks
      ∧ (s.cfg.rttyPauseTicks = 0 → t.rstate = .startbit)
      ∧ (s.cfg.rttyPauseTicks ≠ 0 → t.rstate = .pause)
      ∧ t.taCmp = s.cfg.consts.cmpRtty ∧ t.taArmed = true ∧ t.tbArmed = false
      ∧ t.tbCmp = s.tbCmp ∧ previousStopped s t ∧ apReleased s t ∧ t.errBovr = s.errBovr
      ∧ t.aidx = 0 ∧ t.lstep = 0 ∧ t.apFs = s.apFs ∧ t.apFe = s.apFe ∧ sameData s t

/-- R208 and R232, the other lengths, for START_RTTY and TX_RTTY_POLLED alike (R162): length 0 writes MODE
and TXLEN and ends at once; a length beyond the capacity sets ERR_BOVR and leaves MODE and TXLEN. Both stop
the previous transmission, arm nothing and emit nothing. -/
def Obligations.StartRttyEmptyOrTooLong : Prop :=
  ∀ (n : Index) (s : State), ∀ i ∈ [Instr.startRtty n, .txRttyPolled n],
    n = 0 ∨ s.cfg.txCap < n.toNat →
      ∃ t, exec i s = .next t
        ∧ (n.toNat ≤ s.cfg.txCap → t.mode = .rttyInterrupt ∧ t.txlen = 0 ∧ t.errBovr = s.errBovr)
        ∧ (s.cfg.txCap < n.toNat → t.mode = s.mode ∧ t.txlen = s.txlen ∧ t.errBovr = true)
        ∧ t.taArmed = false ∧ t.tbArmed = false ∧ t.taCmp = s.taCmp ∧ t.tbCmp = s.tbCmp
        ∧ previousStopped s t ∧ txReleased s t ∧ apReleased s t
        ∧ t.rstate = .wait ∧ t.rpause = 0 ∧ t.aidx = 0 ∧ t.lstep = 0
        ∧ t.apFs = s.apFs ∧ t.apFe = s.apFe ∧ sameData s t

/-- R209 and R210, an accepted window: APBUF handed over, the cursor at its start, timer A alone armed with
`CMP_GFSK`; nothing is emitted. -/
def Obligations.StartGfskAccepted : Prop :=
  ∀ (fs fe : Index) (s : State), fs < fe → fe.toNat ≤ s.cfg.apCap →
    ∃ t, exec (.startAprsGfsk fs fe) s = .next t
      ∧ t.mode = .gfskSync ∧ t.apFs = fs ∧ t.apFe = fe ∧ t.aidx = fs
      ∧ t.apReady = true ∧ t.apDone = false
      ∧ t.taCmp = s.cfg.consts.cmpGfsk ∧ t.taArmed = true ∧ t.tbArmed = false ∧ t.tbCmp = s.tbCmp
      ∧ previousStopped s t ∧ txReleased s t ∧ t.errBovr = s.errBovr
      ∧ t.rstate = .wait ∧ t.rpause = 0 ∧ t.lstep = 0 ∧ t.txlen = s.txlen ∧ sameData s t

/-- R209 and R211, an accepted window: as for GFSK with both timers armed, LCUR 0 and LSTEP the 1200 Hz
step. -/
def Obligations.StartLookupAccepted : Prop :=
  ∀ (fs fe : Index) (s : State), fs < fe → fe.toNat ≤ s.cfg.apCap →
    ∃ t, exec (.startAprsLookup fs fe) s = .next t
      ∧ t.mode = .lookup ∧ t.apFs = fs ∧ t.apFe = fe ∧ t.aidx = fs
      ∧ t.apReady = true ∧ t.apDone = false ∧ t.lstep = s.cfg.consts.step1200
      ∧ t.taCmp = s.cfg.consts.cmpLutBit ∧ t.tbCmp = s.cfg.consts.cmpLutSample
      ∧ t.taArmed = true ∧ t.tbArmed = true
      ∧ previousStopped s t ∧ txReleased s t ∧ t.errBovr = s.errBovr
      ∧ t.rstate = .wait ∧ t.rpause = 0 ∧ t.txlen = s.txlen ∧ sameData s t

/-- R209 and R232, the other windows, for both APRS STARTs: an empty window writes MODE and the descriptors
and ends at once; an end beyond the capacity sets ERR_BOVR and leaves them. Both stop the previous
transmission, arm nothing and emit nothing. -/
def Obligations.StartAprsEmptyOrTooLong : Prop :=
  ∀ (fs fe : Index) (s : State) (m : Mode) (i : Instr),
    (i = .startAprsGfsk fs fe ∧ m = .gfskSync ∨ i = .startAprsLookup fs fe ∧ m = .lookup) →
    fe ≤ fs ∨ s.cfg.apCap < fe.toNat →
      ∃ t, exec i s = .next t
        ∧ (fe.toNat ≤ s.cfg.apCap →
            t.mode = m ∧ t.apFs = fs ∧ t.apFe = fe ∧ t.aidx = fs ∧ t.errBovr = s.errBovr)
        ∧ (s.cfg.apCap < fe.toNat →
            t.mode = s.mode ∧ t.apFs = s.apFs ∧ t.apFe = s.apFe ∧ t.aidx = 0 ∧ t.errBovr = true)
        ∧ t.taArmed = false ∧ t.tbArmed = false ∧ t.taCmp = s.taCmp ∧ t.tbCmp = s.tbCmp
        ∧ previousStopped s t ∧ txReleased s t ∧ apReleased s t
        ∧ t.rstate = .wait ∧ t.rpause = 0 ∧ t.lstep = 0 ∧ t.txlen = s.txlen ∧ sameData s t

/-! ### Buffer writes, read-back, acknowledgement -/

/-- R212, inside the capacity and with TXBUF not in flight: the byte at `idx` is written, every other byte
of both buffers reads as before, and nothing else changes. -/
def Obligations.WriteTxbufStoresOneByte : Prop :=
  ∀ (idx : Index) (v : Byte) (s : State), idx.toNat < s.cfg.txCap → s.txReady = false →
    ∃ t, exec (.wrTxbuf idx v) s = .next t
      ∧ t.txbuf.read idx.toNat = some v
      ∧ (∀ j, j ≠ idx.toNat → t.txbuf.read j = s.txbuf.read j)
      ∧ (∀ j, t.apbuf.read j = s.apbuf.read j)
      ∧ t.mode = s.mode ∧ sameTimers s t ∧ sameErrors s t ∧ sameFlags s t ∧ sameRtty s t
      ∧ sameDescriptors s t ∧ sameAprs s t ∧ sameOutputs s t ∧ sameHost s t ∧ sameDraws s t

/-- R213, inside the capacity and with APBUF not in flight: the byte at `idx` is written, every other byte
of both buffers reads as before, and nothing else changes. -/
def Obligations.WriteApbufStoresOneByte : Prop :=
  ∀ (idx : Index) (v : Byte) (s : State), idx.toNat < s.cfg.apCap → s.apReady = false →
    ∃ t, exec (.wrApbuf idx v) s = .next t
      ∧ t.apbuf.read idx.toNat = some v
      ∧ (∀ j, j ≠ idx.toNat → t.apbuf.read j = s.apbuf.read j)
      ∧ (∀ j, t.txbuf.read j = s.txbuf.read j)
      ∧ t.mode = s.mode ∧ sameTimers s t ∧ sameErrors s t ∧ sameFlags s t ∧ sameRtty s t
      ∧ sameDescriptors s t ∧ sameAprs s t ∧ sameOutputs s t ∧ sameHost s t ∧ sameDraws s t

/-- R69, R212, R213, R232: a buffer write at or beyond the capacity writes nothing and raises BufferOverrun,
whether or not the buffer is in flight. -/
def Obligations.WriteBeyondCapacityRaisesOverrun : Prop :=
  ∀ (idx : Index) (v : Byte) (s : State) (i : Instr),
    (i = .wrTxbuf idx v ∧ s.cfg.txCap ≤ idx.toNat ∨ i = .wrApbuf idx v ∧ s.cfg.apCap ≤ idx.toNat) →
      ∃ t, exec i s = .next t ∧ t.errBovr = true ∧ t.errCnr = s.errCnr ∧ t.errMode = s.errMode
        ∧ t.mode = s.mode ∧ sameTimers s t ∧ sameFlags s t ∧ sameRtty s t ∧ sameDescriptors s t
        ∧ sameAprs s t ∧ sameData s t

/-- R249: a write of a buffer in flight, inside the capacity, is the model fault HandoffViolation. -/
def Obligations.WriteInFlightIsHandoffViolation : Prop :=
  ∀ (idx : Index) (v : Byte) (s : State) (i : Instr),
    (i = .wrTxbuf idx v ∧ idx.toNat < s.cfg.txCap ∧ s.txReady = true
      ∨ i = .wrApbuf idx v ∧ idx.toNat < s.cfg.apCap ∧ s.apReady = true) →
      exec i s = .fault .handoffViolation

/-- R45, R64, R214: RDREG returns the numbered register zero-extended to 32 bits, 0 for numbers 19 to 255,
and changes no register, byte or flag. -/
def Obligations.ReadRegisterReturnsTheNumberedRegister : Prop :=
  ∀ (n : BitVec 8) (s : State), ∃ t v, exec (.rdreg n) s = .next t
    ∧ t.rdregValues = s.rdregValues ++ [v]
    ∧ (n = 0 → v = s.mode.toBits.setWidth 32)
    ∧ (n = 1 → v.toNat = s.taArmed.toNat + 2 * s.tbArmed.toNat)
    ∧ (n = 2 → v = s.taCmp) ∧ (n = 3 → v = s.tbCmp)
    ∧ (n = 4 → v.toNat = s.errCnr.toNat + 2 * s.errBovr.toNat + 4 * s.errMode.toNat)
    ∧ (n = 5 → v.toNat = s.txReady.toNat + 2 * s.txConsumed.toNat + 4 * s.apReady.toNat
        + 8 * s.apDone.toNat)
    ∧ (n = 6 → v = s.rstate.toBits.setWidth 32)
    ∧ (n = 7 → v.toNat = s.rbitcnt.toNat) ∧ (n = 8 → v.toNat = s.rcur.toNat)
    ∧ (n = 9 → v.toNat = s.rpause.toNat) ∧ (n = 10 → v.toNat = s.txidx.toNat)
    ∧ (n = 11 → v.toNat = s.txlen.toNat) ∧ (n = 12 → v.toNat = s.apFs.toNat)
    ∧ (n = 13 → v.toNat = s.apFe.toNat) ∧ (n = 14 → v.toNat = s.aidx.toNat)
    ∧ (n = 15 → v.toNat = s.abit.toNat)
    ∧ (n = 16 → v.toNat = if s.atone = .t1200 then 0 else 1)
    ∧ (n = 17 → v.toNat = s.lcur.toNat) ∧ (n = 18 → v.toNat = s.lstep.toNat)
    ∧ (19 ≤ n.toNat → v = 0)
    ∧ t.mode = s.mode ∧ sameTimers s t ∧ sameErrors s t ∧ sameFlags s t ∧ sameRtty s t
    ∧ sameDescriptors s t ∧ sameAprs s t ∧ sameBuffers s t ∧ t.radioTrace = s.radioTrace
    ∧ sameHost s t ∧ sameDraws s t

/-- R215: CLR_ERR clears the error bits its mask selects and nothing else. -/
def Obligations.ClearErrorsClearsTheMaskedBits : Prop :=
  ∀ (k : BitVec 3) (s : State), ∃ t, exec (.clrErr k) s = .next t
    ∧ t.errCnr = (if k.getLsbD 0 = true then false else s.errCnr)
    ∧ t.errBovr = (if k.getLsbD 1 = true then false else s.errBovr)
    ∧ t.errMode = (if k.getLsbD 2 = true then false else s.errMode)
    ∧ t.mode = s.mode ∧ sameTimers s t ∧ sameFlags s t ∧ sameRtty s t ∧ sameDescriptors s t
    ∧ sameAprs s t ∧ sameData s t

/-! ### The RTTY entries -/

/-- R154: PAUSE counts RPAUSE down and moves to STARTBIT when it was at most 1; silent. -/
def Obligations.PauseCountsDown : Prop :=
  ∀ s : State, ∃ t, exec .tickaRttyPause s = .next t
    ∧ (s.rpause.toNat ≤ 1 → t.rpause = 0 ∧ t.rstate = .startbit)
    ∧ (1 < s.rpause.toNat → t.rpause.toNat + 1 = s.rpause.toNat ∧ t.rstate = s.rstate)
    ∧ t.rbitcnt = s.rbitcnt ∧ t.rcur = s.rcur ∧ t.txidx = s.txidx
    ∧ t.mode = s.mode ∧ sameTimers s t ∧ sameErrors s t ∧ sameFlags s t ∧ sameDescriptors s t
    ∧ sameAprs s t ∧ sameData s t

/-- R152, R155, R158: STARTBIT and RELOAD with a byte left, written and inside the buffer, send a space,
load the byte, advance TXIDX by one, set RBITCNT to the 7 or 8 of `RTTY_NBITS`, and go to BYTE. -/
def Obligations.CharacterStarts : Prop :=
  ∀ (s : State) (b : Byte), ∀ i ∈ [Instr.tickaRttyStartbit, .tickaRttyReload],
    s.txidx < s.txlen → s.txidx.toNat < s.cfg.txCap → s.txbuf.read s.txidx.toNat = some b →
      ∃ t, exec i s = .next t ∧ emitted s t s.cfg.fRttySpace
        ∧ t.rcur = b ∧ t.txidx.toNat = s.txidx.toNat + 1
        ∧ t.rbitcnt = dataBitCount s.cfg.rttyNbits
        ∧ (s.cfg.rttyNbits = .seven → t.rbitcnt.toNat = 7)
        ∧ (s.cfg.rttyNbits = .eight → t.rbitcnt.toNat = 8)
        ∧ t.rstate = .byte ∧ t.rpause = s.rpause
        ∧ t.errBovr = s.errBovr ∧ t.errMode = s.errMode ∧ t.rdregValues = s.rdregValues
        ∧ t.mode = s.mode ∧ sameTimers s t ∧ sameFlags s t ∧ sameDescriptors s t ∧ sameAprs s t
        ∧ sameBuffers s t ∧ sameHost s t

/-- R153, R155, R158: STARTBIT and RELOAD with no byte left complete: WAIT, TXBUF given back, timer A
disarmed, nothing emitted and everything else left. -/
def Obligations.RttyCompletes : Prop :=
  ∀ s : State, ∀ i ∈ [Instr.tickaRttyStartbit, .tickaRttyReload],
    s.txlen ≤ s.txidx →
      ∃ t, exec i s = .next t
        ∧ t.rstate = .wait ∧ t.rbitcnt = 0 ∧ t.txReady = false ∧ t.txConsumed = true
        ∧ t.taArmed = false ∧ t.tbArmed = s.tbArmed ∧ t.taCmp = s.taCmp ∧ t.tbCmp = s.tbCmp
        ∧ t.rcur = s.rcur ∧ t.rpause = s.rpause ∧ t.txidx = s.txidx
        ∧ t.apReady = s.apReady ∧ t.apDone = s.apDone
        ∧ t.mode = s.mode ∧ sameErrors s t ∧ sameDescriptors s t ∧ sameAprs s t ∧ sameData s t

/-- STARTBIT and RELOAD at a byte never written since reset (R70, R161) are the model fault
UnwrittenBufferRead: of the two treatments R262 offers the model takes the fault (log entry 6). -/
def Obligations.UnwrittenCharacterFaults : Prop :=
  ∀ s : State, ∀ i ∈ [Instr.tickaRttyStartbit, .tickaRttyReload],
    s.txidx < s.txlen → s.txidx.toNat < s.cfg.txCap → s.txbuf.read s.txidx.toNat = none →
      exec i s = .fault .unwrittenBufferRead

/-- R156: BYTE sends bit 0 of RCUR, shifts RCUR right with zero fill, and counts; the tick that finds a
count of at most 1 moves to STOPBIT with the stop count, the 1 or 2 of `RTTY_NSTOP`. -/
def Obligations.ByteSendsTheLowBit : Prop :=
  ∀ s : State, ∃ t, exec .tickaRttyByte s = .next t
    ∧ emitted s t (if s.rcur.toNat % 2 = 1 then s.cfg.fRttyMark else s.cfg.fRttySpace)
    ∧ t.rcur.toNat = s.rcur.toNat / 2
    ∧ (s.rbitcnt.toNat ≤ 1 → t.rstate = .stopbit ∧ t.rbitcnt = stopBitCount s.cfg.rttyNstop
        ∧ (s.cfg.rttyNstop = .one → t.rbitcnt.toNat = 1)
        ∧ (s.cfg.rttyNstop = .two → t.rbitcnt.toNat = 2))
    ∧ (1 < s.rbitcnt.toNat → t.rstate = s.rstate ∧ t.rbitcnt.toNat + 1 = s.rbitcnt.toNat)
    ∧ t.rpause = s.rpause ∧ t.txidx = s.txidx
    ∧ t.errBovr = s.errBovr ∧ t.errMode = s.errMode ∧ t.rdregValues = s.rdregValues
    ∧ t.mode = s.mode ∧ sameTimers s t ∧ sameFlags s t ∧ sameDescriptors s t ∧ sameAprs s t
    ∧ sameBuffers s t ∧ sameHost s t

/-- R157: STOPBIT sends a mark on the first stop tick of a character only, counts, and moves to RELOAD on
the last. -/
def Obligations.StopbitHoldsTheMark : Prop :=
  ∀ s : State, ∃ t, exec .tickaRttyStopbit s = .next t
    ∧ (s.rbitcnt = stopBitCount s.cfg.rttyNstop → emitted s t s.cfg.fRttyMark)
    ∧ (s.rbitcnt ≠ stopBitCount s.cfg.rttyNstop → notEmitted s t)
    ∧ (s.rbitcnt.toNat ≤ 1 → t.rbitcnt = 0 ∧ t.rstate = .reload)
    ∧ (1 < s.rbitcnt.toNat → t.rbitcnt.toNat + 1 = s.rbitcnt.toNat ∧ t.rstate = s.rstate)
    ∧ t.rcur = s.rcur ∧ t.rpause = s.rpause ∧ t.txidx = s.txidx
    ∧ t.errBovr = s.errBovr ∧ t.errMode = s.errMode ∧ t.rdregValues = s.rdregValues
    ∧ t.mode = s.mode ∧ sameTimers s t ∧ sameFlags s t ∧ sameDescriptors s t ∧ sameAprs s t
    ∧ sameBuffers s t ∧ sameHost s t

/-! ### The polled variant and whole transmissions -/

/-- R162: with every byte of an accepted length written, TX_RTTY_POLLED runs the transmission to its end in
one step: WAIT, TXBUF given back, TXIDX = TXLEN, no timer armed, no compare value loaded. -/
def Obligations.PolledTransmissionCompletes : Prop :=
  ∀ (n : Index) (s : State), n ≠ 0 → n.toNat ≤ s.cfg.txCap →
    (∀ j, j < n.toNat → (s.txbuf.read j).isSome = true) →
      ∃ t, exec (.txRttyPolled n) s = .next t
        ∧ t.rstate = .wait ∧ t.rbitcnt = 0 ∧ t.rpause = 0 ∧ t.txidx = n ∧ t.txlen = n
        ∧ t.txReady = false ∧ t.txConsumed = true ∧ apReleased s t
        ∧ t.taArmed = false ∧ t.tbArmed = false ∧ t.taCmp = s.taCmp ∧ t.tbCmp = s.tbCmp
        ∧ t.mode = .rttyInterrupt ∧ t.errMode = (s.errMode || s.anyArmed) ∧ t.errBovr = s.errBovr
        ∧ t.aidx = 0 ∧ t.abit = 0 ∧ t.atone = .t1200 ∧ t.lcur = 0 ∧ t.lstep = 0
        ∧ t.apFs = s.apFs ∧ t.apFe = s.apFe ∧ t.rdregValues = s.rdregValues
        ∧ sameBuffers s t ∧ sameHost s t

/-- R160, R162: TX_RTTY_POLLED with the radio ready at every emission appends, per byte, one space, the
data bits least significant first and one mark, and nothing else, and raises no ChipNotReady. -/
def Obligations.PolledTransmissionEmitsEveryCharacter : Prop :=
  ∀ (n : Index) (s : State) (bytes : List Byte) (more : List Bool),
    n ≠ 0 → n.toNat ≤ s.cfg.txCap → bytes.length = n.toNat →
    (∀ j, j < n.toNat → s.txbuf.read j = bytes[j]?) →
    s.draws = List.replicate (n.toNat * (bitsPerChar s.cfg + 2)) true ++ more →
      ∃ t, exec (.txRttyPolled n) s = .next t
        ∧ t.radioTrace = s.radioTrace ++ bytes.flatMap (charEvents s.cfg)
        ∧ t.errCnr = s.errCnr ∧ t.draws = more

/-- R160: a transmission of n bytes started by START_RTTY, with the radio always ready and no other command,
appends exactly the characters' events and is over after exactly `p + n * (1 + NBITS + NSTOP) + 1` ticks of
timer A: each of them is serviced, and after the last the machine is in WAIT with timer A disarmed. -/
def Obligations.RttyTransmissionByTicks : Prop :=
  ∀ (n : Index) (s : State) (bytes : List Byte),
    s.cfg.wellFormed = true → n ≠ 0 → n.toNat ≤ s.cfg.txCap → bytes.length = n.toNat →
    (∀ j, j < n.toNat → s.txbuf.read j = bytes[j]?) →
    s.draws = List.replicate (n.toNat * (bitsPerChar s.cfg + 2)) true →
    s.schedule = eventOf (.startRtty n) :: List.replicate (s.cfg.rttyPauseTicks.toNat
        + n.toNat * (1 + bitsPerChar s.cfg + stopsPerChar s.cfg) + 1) (.tick .a) →
      ∃ t : State, Host.Core.run Sys2Proof.core (1 + (s.cfg.rttyPauseTicks.toNat
          + n.toNat * (1 + bitsPerChar s.cfg + stopsPerChar s.cfg) + 1)) s = .next t
        ∧ t.radioTrace = s.radioTrace ++ bytes.flatMap (charEvents s.cfg)
        ∧ t.errCnr = s.errCnr ∧ t.rstate = .wait ∧ t.taArmed = false
        ∧ t.txReady = false ∧ t.txConsumed = true ∧ t.txidx = n ∧ t.schedule = []

/-- R176: for a window of k bytes started by START_APRS_GFSK, with the radio always ready and no other
command, exactly 8k emissions are made, the tones of the window's bits under the NRZI rule from the 1200 Hz
tone; after 8k + 1 ticks, each of them serviced, the block is idle with AIDX = AP_FE and AP_DONE = 1. -/
def Obligations.GfskTransmissionByTicks : Prop :=
  ∀ (fs fe : Index) (s : State) (window : List Byte),
    s.cfg.wellFormed = true → fs < fe → fe.toNat ≤ s.cfg.apCap →
    fs.toNat + window.length = fe.toNat →
    (∀ j, j < window.length → s.apbuf.read (fs.toNat + j) = window[j]?) →
    s.draws = List.replicate (8 * window.length) true →
    s.schedule = eventOf (.startAprsGfsk fs fe) :: List.replicate (8 * window.length + 1) (.tick .a) →
      ∃ t : State, Host.Core.run Sys2Proof.core (1 + (8 * window.length + 1)) s = .next t
        ∧ t.radioTrace = s.radioTrace
            ++ (nrziTones .t1200 (window.flatMap bitsOf)).map (fun x => .freqFast (toneHz s.cfg x))
        ∧ t.errCnr = s.errCnr ∧ t.aidx = fe ∧ t.taArmed = false ∧ t.tbArmed = false
        ∧ t.apReady = false ∧ t.apDone = true ∧ t.schedule = []

/-! ### The APRS entries -/

/-- R171, R172, R173, R178: TICKA.GFSK inside the window takes bit ABIT of APBUF[AIDX], least significant
first, advances the cursor by one bit, changes the tone on a 0 and keeps it on a 1, and emits the tone after
the change. -/
def Obligations.GfskTickSendsOneBit : Prop :=
  ∀ (s : State) (v : Byte), s.aidx < s.apFe → s.aidx.toNat < s.cfg.apCap →
    s.apbuf.read s.aidx.toNat = some v →
      ∃ t, exec .tickaGfsk s = .next t
        ∧ (v.getLsbD s.abit.toNat = true → t.atone = s.atone)
        ∧ (v.getLsbD s.abit.toNat = false → t.atone ≠ s.atone)
        ∧ emitted s t (if t.atone = .t1200 then s.cfg.fAprs1200 else s.cfg.fAprs2200)
        ∧ 8 * t.aidx.toNat + t.abit.toNat = 8 * s.aidx.toNat + s.abit.toNat + 1
        ∧ t.lcur = s.lcur ∧ t.lstep = s.lstep
        ∧ t.errBovr = s.errBovr ∧ t.errMode = s.errMode ∧ t.rdregValues = s.rdregValues
        ∧ t.mode = s.mode ∧ sameTimers s t ∧ sameFlags s t ∧ sameRtty s t ∧ sameDescriptors s t
        ∧ sameBuffers s t ∧ sameHost s t

/-- R186: TICKA.LOOKUP inside the window takes the same bit and never emits; a 1 leaves tone, step and
cursor; a 0 changes the tone, loads the new tone's step and resets LCUR to 0. -/
def Obligations.LookupTickTakesOneBit : Prop :=
  ∀ (s : State) (v : Byte), s.aidx < s.apFe → s.aidx.toNat < s.cfg.apCap →
    s.apbuf.read s.aidx.toNat = some v →
      ∃ t, exec .tickaLookup s = .next t
        ∧ (v.getLsbD s.abit.toNat = true →
            t.atone = s.atone ∧ t.lstep = s.lstep ∧ t.lcur = s.lcur)
        ∧ (v.getLsbD s.abit.toNat = false → t.atone ≠ s.atone ∧ t.lcur = 0
            ∧ t.lstep = if t.atone = .t2200 then s.cfg.consts.step2200 else s.cfg.consts.step1200)
        ∧ 8 * t.aidx.toNat + t.abit.toNat = 8 * s.aidx.toNat + s.abit.toNat + 1
        ∧ t.mode = s.mode ∧ sameTimers s t ∧ sameErrors s t ∧ sameFlags s t ∧ sameRtty s t
        ∧ sameDescriptors s t ∧ sameData s t

/-- R173, R174, R186: an APRS timer A tick at the end of the window completes: both timers stopped, APBUF
given back, nothing emitted and everything else left. -/
def Obligations.AprsCompletes : Prop :=
  ∀ s : State, ∀ i ∈ [Instr.tickaGfsk, .tickaLookup],
    s.apFe ≤ s.aidx →
      ∃ t, exec i s = .next t
        ∧ t.taArmed = false ∧ t.tbArmed = false ∧ t.apReady = false ∧ t.apDone = true
        ∧ t.txReady = s.txReady ∧ t.txConsumed = s.txConsumed
        ∧ t.taCmp = s.taCmp ∧ t.tbCmp = s.tbCmp
        ∧ t.mode = s.mode ∧ sameErrors s t ∧ sameRtty s t ∧ sameDescriptors s t ∧ sameAprs s t
        ∧ sameData s t

/-- An APRS timer A tick inside the window at a byte never written since reset is the model fault
UnwrittenBufferRead: of the two treatments R262 offers the model takes the fault (log entry 6). -/
def Obligations.UnwrittenWindowByteFaults : Prop :=
  ∀ s : State, ∀ i ∈ [Instr.tickaGfsk, .tickaLookup],
    s.aidx < s.apFe → s.aidx.toNat < s.cfg.apCap → s.apbuf.read s.aidx.toNat = none →
      exec i s = .fault .unwrittenBufferRead

/-- R187, R188: in a well-formed configuration TICKB.LOOKUP emits `F_APRS + LUT_MULT * s + LUT_OFFS` for the
sample at the cursor as it stands, then advances the cursor by LSTEP modulo 256. -/
def Obligations.LookupSampleIsScaledAndEmitted : Prop :=
  ∀ s : State, s.cfg.wellFormed = true →
    ∃ t hz, exec .tickbLookup s = .next t ∧ emitted s t hz
      ∧ (s.atone = .t1200 → (hz.toNat : Int) = s.cfg.fAprs.toNat
          + s.cfg.lutMult1200 * (sample s.lcur).toNat + s.cfg.lutOffs1200)
      ∧ (s.atone = .t2200 → (hz.toNat : Int) = s.cfg.fAprs.toNat
          + s.cfg.lutMult2200 * (sample s.lcur).toNat + s.cfg.lutOffs2200)
      ∧ t.lcur.toNat = (s.lcur.toNat + s.lstep.toNat) % 256
      ∧ t.aidx = s.aidx ∧ t.abit = s.abit ∧ t.atone = s.atone ∧ t.lstep = s.lstep
      ∧ t.errBovr = s.errBovr ∧ t.errMode = s.errMode ∧ t.rdregValues = s.rdregValues
      ∧ t.mode = s.mode ∧ sameTimers s t ∧ sameFlags s t ∧ sameRtty s t ∧ sameDescriptors s t
      ∧ sameBuffers s t ∧ sameHost s t

/-- R190: while only timer B ticks in lookup mode, with the radio always ready, k ticks emit the samples at
LCUR, LCUR + LSTEP, LCUR + 2 LSTEP, ... modulo 256, scaled for the tone, and leave LCUR k steps on. -/
def Obligations.LookupSampleStream : Prop :=
  ∀ (k : Nat) (s : State) (rest : List Event) (more : List Bool),
    s.cfg.wellFormed = true → s.mode = .lookup → s.tbArmed = true →
    s.schedule = List.replicate k (.tick .b) ++ rest → s.draws = List.replicate k true ++ more →
      ∃ (t : State) (new : List RadioEvent), Host.Core.run Sys2Proof.core k s = .next t
        ∧ t.radioTrace = s.radioTrace ++ new
        ∧ new.map RadioEvent.hzInt = sampleValues s.cfg s.atone s.lcur s.lstep k
        ∧ t.lcur.toNat = (s.lcur.toNat + k * s.lstep.toNat) % 256
        ∧ t.schedule = rest ∧ t.draws = more

/-! ### Errors and faults -/

/-- R231 and R42: the readiness answers decide RADIO_TRACE and ERR_CNR and nothing else: two states that
differ only there and in the answers still to come give outcomes that differ only there, for every
operation but RDREG 4, which reads ERR_CNR. -/
def Obligations.ReadinessTouchesOnlyTraceAndErrCnr : Prop :=
  ∀ (i : Instr) (s t : State), i ≠ .rdreg 4 → s.eraseRadio = t.eraseRadio →
    mapNext State.eraseRadio (exec i s) = mapNext State.eraseRadio (exec i t)

/-- R24, R236: no operation branches on the error bits: two states that differ only there give outcomes
that differ only there, for every operation but RDREG 4, which reads them. -/
def Obligations.ErrorBitsSteerNothing : Prop :=
  ∀ (i : Instr) (s t : State), i ≠ .rdreg 4 → s.eraseErrors = t.eraseErrors →
    mapNext State.eraseErrors (exec i s) = mapNext State.eraseErrors (exec i t)

/-- R24, R215, R236: no operation but CLR_ERR clears an error bit. -/
def Obligations.OnlyClearErrorsClearsAnErrorBit : Prop :=
  ∀ (i : Instr) (s t : State), (∀ k, i ≠ .clrErr k) → exec i s = .next t →
    (s.errCnr = true → t.errCnr = true) ∧ (s.errBovr = true → t.errBovr = true)
      ∧ (s.errMode = true → t.errMode = true)

/-- R250, the three error columns: an operation that raises an error bit is one the table lists under it,
with the table's condition: for ChipNotReady a false readiness draw at an emission it made (R231), the one
emission of a tick entry or one of those of TX_RTTY_POLLED. -/
def Obligations.OnlyListedOperationsRaiseErrors : Prop :=
  ∀ (i : Instr) (s t : State), exec i s = .next t →
    (s.errCnr = false → t.errCnr = true →
      i ∈ [Instr.tickaRttyStartbit, .tickaRttyByte, .tickaRttyStopbit, .tickaRttyReload, .tickaGfsk,
          .tickbLookup] ∧ s.radioReady = false ∧ t.drawCount = s.drawCount + 1
      ∨ (∃ n, i = .txRttyPolled n) ∧ ∃ k, s.drawCount + k < t.drawCount ∧ s.answerAt k = false)
    ∧ (s.errBovr = false → t.errBovr = true →
      (∃ n, (i = .startRtty n ∨ i = .txRttyPolled n) ∧ s.cfg.txCap < n.toNat)
      ∨ (∃ fs fe, (i = .startAprsGfsk fs fe ∨ i = .startAprsLookup fs fe) ∧ s.cfg.apCap < fe.toNat)
      ∨ (∃ idx v, i = .wrTxbuf idx v ∧ s.cfg.txCap ≤ idx.toNat)
      ∨ (∃ idx v, i = .wrApbuf idx v ∧ s.cfg.apCap ≤ idx.toNat))
    ∧ (s.errMode = false → t.errMode = true →
      (s.taArmed = true ∨ s.tbArmed = true)
        ∧ ((∃ n, i = .startRtty n ∨ i = .txRttyPolled n)
          ∨ (∃ fs fe, i = .startAprsGfsk fs fe ∨ i = .startAprsLookup fs fe) ∨ ∃ m, i = .setMode m))

/-- R250, the model-fault column, and R275: the operations that can fault, and with what; the polled loop
never runs out of passes. -/
def Obligations.OnlyListedOperationsFault : Prop :=
  ∀ (i : Instr) (s : State) (f : Fault), exec i s = .fault f →
    (f = .handoffViolation ∧ ∃ idx v, i = .wrTxbuf idx v ∨ i = .wrApbuf idx v)
      ∨ ((f = .unwrittenBufferRead ∨ f = .indexOutsideBuffer)
        ∧ (i ∈ [Instr.tickaRttyStartbit, .tickaRttyReload, .tickaGfsk, .tickaLookup]
          ∨ ∃ n, i = .txRttyPolled n))

/-! ### Invariants -/

/-- R44: every step keeps the invariants (a) to (g). -/
def Obligations.EveryStepKeepsTheInvariants : Prop :=
  ∀ s t : State, s.Inv → step s = .next t → t.Inv

/-- R44, R46, R262: under every configuration the state after reset has the invariants of R44, canonical
buffers, extents within the capacities, and the step rule of R37. -/
def Obligations.InvariantsHoldAtReset : Prop :=
  ∀ c : Config, (State.resetWith c).Inv ∧ (State.resetWith c).buffersOk = true
    ∧ (State.resetWith c).extentsOk = true ∧ (State.resetWith c).stepFollowsTone

/-- R60 to R62, R69: every step keeps both buffers in their canonical form and inside their capacities. -/
def Obligations.EveryStepKeepsTheBuffersCanonical : Prop :=
  ∀ s t : State, s.buffersOk = true → step s = .next t → t.buffersOk = true

/-- R32, R33, R70: every step keeps the stored extents within the capacities. -/
def Obligations.EveryStepKeepsTheExtents : Prop :=
  ∀ s t : State, s.extentsOk = true → step s = .next t → t.extentsOk = true

/-- R232: no step from a state with the invariants of R44 reads a buffer at or beyond its capacity. -/
def Obligations.NoStepReadsOutsideABuffer : Prop :=
  ∀ s : State, s.Inv → step s ≠ .fault .indexOutsideBuffer

/-- R37, R44: every step from a state with the invariants of R44 keeps LSTEP at the step of the tone being
sent while timer B is armed. -/
def Obligations.EveryStepKeepsTheTonesStep : Prop :=
  ∀ s t : State, s.Inv → s.stepFollowsTone → step s = .next t → t.stepFollowsTone

/-- R9, R41: no step changes the configuration, and RADIO_TRACE and the values returned to the host only
grow. -/
def Obligations.ConfigurationFixedAndHistoriesGrow : Prop :=
  ∀ s t : State, step s = .next t →
    t.cfg = s.cfg ∧ (∃ new, t.radioTrace = s.radioTrace ++ new)
      ∧ ∃ vals, t.rdregValues = s.rdregValues ++ vals

/-! ### Whole-machine rules -/

/-- R247: no tick-dispatch entry writes a field that only the main context may write, and none sets
ERR_BOVR or ERR_MODE or clears an error bit. -/
def Obligations.TicksLeaveMainContextFields : Prop :=
  ∀ (i : Instr) (s t : State), isCommand i = false → exec i s = .next t →
    sameBuffers s t ∧ t.mode = s.mode ∧ t.taCmp = s.taCmp ∧ t.tbCmp = s.tbCmp
      ∧ sameDescriptors s t ∧ t.errBovr = s.errBovr ∧ t.errMode = s.errMode
      ∧ (s.errCnr = true → t.errCnr = true) ∧ t.rdregValues = s.rdregValues

/-- R38, R39: the bytes of TXBUF change only by WR_TXBUF and those of APBUF only by WR_APBUF. -/
def Obligations.BuffersChangeOnlyByTheirWrites : Prop :=
  ∀ (i : Instr) (s t : State), exec i s = .next t →
    ((∀ idx v, i ≠ .wrTxbuf idx v) → ∀ j, t.txbuf.read j = s.txbuf.read j)
      ∧ ((∀ idx v, i ≠ .wrApbuf idx v) → ∀ j, t.apbuf.read j = s.apbuf.read j)

/-- R127, R200: no host command but TX_RTTY_POLLED calls the radio. -/
def Obligations.OnlyThePolledCommandEmits : Prop :=
  ∀ (i : Instr) (s t : State), isCommand i = true → (∀ n, i ≠ .txRttyPolled n) →
    exec i s = .next t → t.radioTrace = s.radioTrace ∧ sameDraws s t

/-- R21, R79, R247: MODE changes only by SET_MODE with both timers stopped, by ABORT or TX_RTTY_POLLED, which
leave both timers stopped, or by one of the three STARTs; no tick changes it. -/
def Obligations.ModeChangesOnlyByTheListedCommands : Prop :=
  ∀ (i : Instr) (s t : State), exec i s = .next t → t.mode ≠ s.mode →
    ((∃ m, i = .setMode m) ∧ s.anyArmed = false)
      ∨ ((i = .abort ∨ ∃ n, i = .txRttyPolled n) ∧ t.anyArmed = false)
      ∨ (∃ n, i = .startRtty n)
      ∨ ∃ fs fe, i = .startAprsGfsk fs fe ∨ i = .startAprsLookup fs fe

/-- R220, R221: after a START that armed a timer, only its engine's buffer is in flight and the other engine's
registers are at idle; and after any number of steps with no further host command, a tick of an armed timer is
still dispatched to the engine that START selected. -/
def Obligations.StartInstallsOneEngine : Prop :=
  ∀ (i : Instr) (s t : State), exec i s = .next t → t.anyArmed = true →
    (∀ n, i = .startRtty n → t.tbArmed = false ∧ t.txReady = true ∧ t.apReady = false
        ∧ t.aidx = 0 ∧ t.abit = 0 ∧ t.atone = .t1200 ∧ t.lcur = 0 ∧ t.lstep = 0
        ∧ dispatch .a t.mode t.rstate ∈ [Instr.tickaRttyPause, .tickaRttyStartbit])
    ∧ (∀ fs fe, i = .startAprsGfsk fs fe → t.tbArmed = false ∧ t.txReady = false
        ∧ t.apReady = true ∧ t.rstate = .wait ∧ t.rbitcnt = 0 ∧ t.rcur = 0 ∧ t.txidx = 0
        ∧ dispatch .a t.mode t.rstate = .tickaGfsk)
    ∧ (∀ fs fe, i = .startAprsLookup fs fe → t.txReady = false
        ∧ t.apReady = true ∧ t.rstate = .wait ∧ t.rbitcnt = 0 ∧ t.rcur = 0 ∧ t.txidx = 0
        ∧ dispatch .a t.mode t.rstate = .tickaLookup ∧ dispatch .b t.mode t.rstate = .tickbLookup)
    ∧ ∀ m : Mode,
        ((∃ n, i = .startRtty n) ∧ m = .rttyInterrupt
          ∨ (∃ fs fe, i = .startAprsGfsk fs fe) ∧ m = .gfskSync
          ∨ (∃ fs fe, i = .startAprsLookup fs fe) ∧ m = .lookup) →
        ∀ (k : Nat) (u : State), (∀ w, Event.command w ∉ t.schedule.take k) →
          k ≤ t.schedule.length ∨ t.scheduleKind = .finite →
          Host.Core.run Sys2Proof.core k t = .next u →
            u.mode = m ∧ ∀ v, u.armed v = true → dispatch v u.mode u.rstate ∈ engineEntries m

/-! ### Reset and pure functions -/

/-- R46, R260, R262: every register, flag and the trace at the value of the table, and no buffer byte written,
under every configuration. -/
def Obligations.ResetValues : Prop :=
  ∀ c : Config,
    let s := State.resetWith c
    s.mode = .rttyInterrupt ∧ s.taArmed = false ∧ s.tbArmed = false ∧ s.taCmp = 0 ∧ s.tbCmp = 0
      ∧ s.errCnr = false ∧ s.errBovr = false ∧ s.errMode = false
      ∧ s.txReady = false ∧ s.txConsumed = true ∧ s.apReady = false ∧ s.apDone = true
      ∧ s.rstate = .wait ∧ s.rbitcnt = 0 ∧ s.rcur = 0 ∧ s.rpause = 0 ∧ s.txidx = 0 ∧ s.txlen = 0
      ∧ s.apFs = 0 ∧ s.apFe = 0 ∧ s.aidx = 0 ∧ s.abit = 0 ∧ s.atone = .t1200 ∧ s.lcur = 0
      ∧ s.lstep = 0 ∧ s.radioTrace = [] ∧ s.reg 5 = 0xA ∧ s.reg 6 = 5
      ∧ ∀ j, s.txbuf.read j = none ∧ s.apbuf.read j = none

/-- R143: every sample is in 1 to 255, the cursor wraps with period 256, the table has the two symmetries,
and its mean over a period is 128; R142: its four quarter points are 128, 255, 128 and 1. -/
def Obligations.WaveformTableProperties : Prop :=
  sineTable.length = 256
    ∧ (∀ k : Byte, 1 ≤ (sample k).toNat ∧ (sample k).toNat ≤ 255)
    ∧ (∀ k step : Byte, (advanceCursor k step).toNat = (k.toNat + step.toNat) % 256)
    ∧ (∀ k : Byte, k.toNat ≤ 128 → sample (128 - k) = sample k)
    ∧ (∀ k : Byte, k.toNat ≤ 127 → (sample (128 + k)).toNat + (sample k).toNat = 256)
    ∧ (sineTable.map BitVec.toNat).sum = 128 * 256
    ∧ sample 0 = 128 ∧ sample 64 = 255 ∧ sample 128 = 128 ∧ sample 192 = 1

/-- R128, R129: DEVCODE is the exact integer floor of `2^19 * OUTDIV * deviation / (2 * ref_clock)`, never
rounded up, and does not decrease as the deviation grows; a clock of 0 is outside its domain. -/
def Obligations.DeviationCodeIsTheExactFloor : Prop :=
  ∀ dev ref outdiv : Nat,
    (ref = 0 → devCode dev ref outdiv = none)
      ∧ (ref ≠ 0 → ∃ code, devCode dev ref outdiv = some code
        ∧ code * (2 * ref) ≤ 2 ^ 19 * outdiv * dev ∧ 2 ^ 19 * outdiv * dev < (code + 1) * (2 * ref)
        ∧ ∀ dev' code', dev ≤ dev' → devCode dev' ref outdiv = some code' → code ≤ code')
end

