-- ==== Sys2Proof/Laws/Decode.lean ====
section
/-! SUPPORT. The enumerations' numbers, the fields of a command word, and the key of a dispatch. -/

namespace Sys2Proof

@[simp] theorem Mode.ofBits_toBits (m : Mode) : Mode.ofBits m.toBits = m := by cases m <;> rfl

@[simp] theorem Mode.toBits_ofBits (b : BitVec 2) : (Mode.ofBits b).toBits = b := by revert b; decide

@[simp] theorem RState.ofBits_toBits (r : RState) : RState.ofBits r.toBits = some r := by cases r <;> rfl

@[simp] theorem Timer.ofBit_toBit (v : Timer) : Timer.ofBit v.toBit = v := by cases v <;> rfl

/-- The key of a vector, mode and state selects the entry of the table (R96, R97). -/
theorem decodeKey_dispatchKey (v : Timer) (m : Mode) (r : RState) :
    decodeKey (dispatchKey v m r) = .ok (dispatch v m r) := by
  cases v <;> cases m <;> cases r <;> rfl

/-- A command is never a dispatch entry: what a word decodes to is encoded as a word. -/
theorem dispatch_is_key (v : Timer) (m : Mode) (r : RState) :
    ∃ k, encode (dispatch v m r) = .key k := by
  cases v <;> cases m <;> cases r <;> exact ⟨_, rfl⟩

/-- A word is its three fields (R91). -/
theorem commandWord_fields (w : Word) : commandWord (opField w) (aField w) (bField w) = w := by
  unfold commandWord opField aField bField
  ext i hi
  simp only [BitVec.getElem_append, BitVec.getElem_extractLsb']
  split
  · simp [BitVec.getElem_eq_testBit_toNat, *]
  · split
    · have : 12 + (i - 12) = i := by omega
      simp [this, BitVec.getElem_eq_testBit_toNat, BitVec.getLsbD]
    · have : 24 + (i - 12 - 12) = i := by omega
      simp [this, BitVec.getElem_eq_testBit_toNat, BitVec.getLsbD]

/-- The bits of a command word are those of its fields (R91). -/
theorem commandWord_getLsbD (op : BitVec 8) (a b : Index) (i : Nat) :
    (commandWord op a b).getLsbD i
      = if i < 12 then b.getLsbD i else if i - 12 < 12 then a.getLsbD (i - 12)
        else op.getLsbD (i - 12 - 12) := by
  show BitVec.getLsbD (w := 8 + 12 + 12) (op ++ a ++ b) i = _
  simp only [BitVec.getLsbD_append]

@[simp] theorem opField_commandWord (op : BitVec 8) (a b : Index) : opField (commandWord op a b) = op := by
  apply BitVec.eq_of_getLsbD_eq
  intro i hi
  have h1 : ¬ 24 + i < 12 := by omega
  have h2 : ¬ 24 + i - 12 < 12 := by omega
  have h3 : 24 + i - 12 - 12 = i := by omega
  rw [opField, BitVec.getLsbD_extractLsb', commandWord_getLsbD, if_neg h1, if_neg h2, h3]
  simp [hi]

@[simp] theorem aField_commandWord (op : BitVec 8) (a b : Index) : aField (commandWord op a b) = a := by
  apply BitVec.eq_of_getLsbD_eq
  intro i hi
  have h1 : ¬ 12 + i < 12 := by omega
  have h2 : 12 + i - 12 < 12 := by omega
  have h3 : 12 + i - 12 = i := by omega
  rw [aField, BitVec.getLsbD_extractLsb', commandWord_getLsbD, if_neg h1, if_pos h2, h3]
  simp [hi]

@[simp] theorem bField_commandWord (op : BitVec 8) (a b : Index) : bField (commandWord op a b) = b := by
  apply BitVec.eq_of_getLsbD_eq
  intro i hi
  have h1 : 0 + i < 12 := by omega
  rw [bField, BitVec.getLsbD_extractLsb', commandWord_getLsbD, if_pos h1]
  simp [hi]

/-- Masking a command word masks its fields. -/
theorem commandWord_and (op a b op' a' b') :
    commandWord op a b &&& commandWord op' a' b'
      = commandWord (op &&& op') (a &&& a') (b &&& b') := by
  apply BitVec.eq_of_getLsbD_eq
  intro i _
  simp only [BitVec.getLsbD_and, commandWord_getLsbD]
  split
  · rfl
  · split <;> rfl

/-- Two command words are equal when their fields are. -/
theorem commandWord_inj (op a b op' a' b') :
    commandWord op a b = commandWord op' a' b' ↔ op = op' ∧ a = a' ∧ b = b' := by
  constructor
  · intro h
    exact ⟨by simpa using congrArg opField h, by simpa using congrArg aField h,
      by simpa using congrArg bField h⟩
  · rintro ⟨rfl, rfl, rfl⟩; rfl

/-- A row with the mask's fields `0xFF, ma, mb` matches a word by its fields. -/
theorem matchesWord_iff {r : CommandRow} {p : BitVec 8} {ma mb : Index}
    (hm : r.mask = commandWord 0xFF ma mb) (hp : r.pattern = commandWord p 0 0)
    (op : BitVec 8) (a b : Index) :
    r.matchesWord (commandWord op a b) = decide (op = p ∧ a &&& ma = 0 ∧ b &&& mb = 0) := by
  have hall : op &&& 0xFF = op := BitVec.and_allOnes
  simp only [CommandRow.matchesWord, hm, hp, commandWord_and, beq_eq_decide, commandWord_inj, hall]

/-- The decoder by fields: the opcode selects the row, and the masked operand bits must be zero. -/
def decodeFields (op : BitVec 8) (a b : Index) : Except DecodeError Instr :=
  if op = 0x00 then if a = 0 ∧ b = 0 then .ok .nop else .error .mustBeZero
  else if op = 0x01 then if a = 0 ∧ b = 0 then .ok .stopTimers else .error .mustBeZero
  else if op = 0x02 then
    if a = 0 ∧ b &&& 0xFFC = 0 then .ok (.setMode (Mode.ofBits (b.extractLsb' 0 2)))
    else .error .mustBeZero
  else if op = 0x03 then if a = 0 ∧ b = 0 then .ok .abort else .error .mustBeZero
  else if op = 0x10 then if a = 0 then .ok (.startRtty b) else .error .mustBeZero
  else if op = 0x11 then if a = 0 then .ok (.txRttyPolled b) else .error .mustBeZero
  else if op = 0x20 then .ok (.startAprsGfsk a b)
  else if op = 0x21 then .ok (.startAprsLookup a b)
  else if op = 0x30 then
    if b &&& 0xF00 = 0 then .ok (.wrTxbuf a (b.extractLsb' 0 8)) else .error .mustBeZero
  else if op = 0x31 then
    if b &&& 0xF00 = 0 then .ok (.wrApbuf a (b.extractLsb' 0 8)) else .error .mustBeZero
  else if op = 0x40 then
    if a = 0 ∧ b &&& 0xF00 = 0 then .ok (.rdreg (b.extractLsb' 0 8)) else .error .mustBeZero
  else if op = 0x41 then
    if a = 0 ∧ b &&& 0xFF8 = 0 then .ok (.clrErr (b.extractLsb' 0 3)) else .error .mustBeZero
  else .error .unassignedOpcode

theorem and_ones (a : Index) : a &&& 0xFFF = a := by
  exact BitVec.and_allOnes

/-- The decoder of R93, word by word, is the decoder by fields. -/
theorem decodeCommand_commandWord (op : BitVec 8) (a b : Index) :
    decodeCommand (commandWord op a b) = decodeFields op a b := by
  have e0 := fun f => matchesWord_iff (r := ⟨0x00000000, 0xFFFFFFFF, f⟩) (p := 0x00) (ma := 0xFFF) (mb := 0xFFF) rfl rfl op a b
  have e1 := fun f => matchesWord_iff (r := ⟨0x01000000, 0xFFFFFFFF, f⟩) (p := 0x01) (ma := 0xFFF) (mb := 0xFFF) rfl rfl op a b
  have e2 := fun f => matchesWord_iff (r := ⟨0x02000000, 0xFFFFFFFC, f⟩) (p := 0x02) (ma := 0xFFF) (mb := 0xFFC) rfl rfl op a b
  have e3 := fun f => matchesWord_iff (r := ⟨0x03000000, 0xFFFFFFFF, f⟩) (p := 0x03) (ma := 0xFFF) (mb := 0xFFF) rfl rfl op a b
  have e4 := fun f => matchesWord_iff (r := ⟨0x10000000, 0xFFFFF000, f⟩) (p := 0x10) (ma := 0xFFF) (mb := 0) rfl rfl op a b
  have e5 := fun f => matchesWord_iff (r := ⟨0x11000000, 0xFFFFF000, f⟩) (p := 0x11) (ma := 0xFFF) (mb := 0) rfl rfl op a b
  have e6 := fun f => matchesWord_iff (r := ⟨0x20000000, 0xFF000000, f⟩) (p := 0x20) (ma := 0) (mb := 0) rfl rfl op a b
  have e7 := fun f => matchesWord_iff (r := ⟨0x21000000, 0xFF000000, f⟩) (p := 0x21) (ma := 0) (mb := 0) rfl rfl op a b
  have e8 := fun f => matchesWord_iff (r := ⟨0x30000000, 0xFF000F00, f⟩) (p := 0x30) (ma := 0) (mb := 0xF00) rfl rfl op a b
  have e9 := fun f => matchesWord_iff (r := ⟨0x31000000, 0xFF000F00, f⟩) (p := 0x31) (ma := 0) (mb := 0xF00) rfl rfl op a b
  have e10 := fun f => matchesWord_iff (r := ⟨0x40000000, 0xFFFFFF00, f⟩) (p := 0x40) (ma := 0xFFF) (mb := 0xF00) rfl rfl op a b
  have e11 := fun f => matchesWord_iff (r := ⟨0x41000000, 0xFFFFFFF8, f⟩) (p := 0x41) (ma := 0xFFF) (mb := 0xFF8) rfl rfl op a b
  have ho : opcodeAssigned (commandWord op a b) = decide (op ∈ ([0x00, 0x01, 0x02, 0x03, 0x10, 0x11,
      0x20, 0x21, 0x30, 0x31, 0x40, 0x41] : List (BitVec 8))) := by
    simp only [opcodeAssigned, opField_commandWord, commandRows, List.any_cons, List.any_nil, Bool.or_false]
    simp [opField, beq_eq_decide]
  unfold decodeCommand
  rw [ho]
  simp only [commandRows, List.find?_cons, e0, e1, e2, e3, e4, e5, e6, e7, e8, e9, e10, e11, and_ones]
  unfold decodeFields
  clear ho e0 e1 e2 e3 e4 e5 e6 e7 e8 e9 e10 e11
  by_cases h0 : op = 0x00
  · subst h0; by_cases ha : a = 0 <;> by_cases hb : b = 0 <;> simp_all
  by_cases h1 : op = 0x01
  · subst h1; by_cases ha : a = 0 <;> by_cases hb : b = 0 <;> simp_all
  by_cases h2 : op = 0x02
  · subst h2; by_cases ha : a = 0 <;> by_cases hb : b &&& 0xFFC = 0 <;> simp_all
  by_cases h3 : op = 0x03
  · subst h3; by_cases ha : a = 0 <;> by_cases hb : b = 0 <;> simp_all
  by_cases h4 : op = 0x10
  · subst h4; by_cases h : a = 0 <;> simp_all
  by_cases h5 : op = 0x11
  · subst h5; by_cases h : a = 0 <;> simp_all
  by_cases h6 : op = 0x20
  · subst h6; simp_all
  by_cases h7 : op = 0x21
  · subst h7; simp_all
  by_cases h8 : op = 0x30
  · subst h8; by_cases h : b &&& 0xF00 = 0 <;> simp_all
  by_cases h9 : op = 0x31
  · subst h9; by_cases h : b &&& 0xF00 = 0 <;> simp_all
  by_cases h10 : op = 0x40
  · subst h10; by_cases ha : a = 0 <;> by_cases hb : b &&& 0xF00 = 0 <;> simp_all
  by_cases h11 : op = 0x41
  · subst h11; by_cases ha : a = 0 <;> by_cases hb : b &&& 0xFF8 = 0 <;> simp_all
  simp_all

/-- A command word as a number. -/
theorem commandWord_toNat (op : BitVec 8) (a b : Index) :
    (commandWord op a b).toNat = op.toNat * 16777216 + a.toNat * 4096 + b.toNat := by
  have ha := a.isLt
  have hb := b.isLt
  show BitVec.toNat (w := 8 + 12 + 12) (op ++ a ++ b) = _
  rw [BitVec.toNat_append, BitVec.toNat_append, ← Nat.shiftLeft_add_eq_or_of_lt (by omega),
    ← Nat.shiftLeft_add_eq_or_of_lt (by omega), Nat.shiftLeft_eq, Nat.shiftLeft_eq]
  omega

/-- An operand widened to a field has no bit above its own width. -/
theorem setWidth_and_eq_zero {k : Nat} (v : BitVec k) (m : Index) (h : ∀ i, i < k → m.getLsbD i = false) :
    v.setWidth 12 &&& m = 0 := by
  apply BitVec.eq_of_getLsbD_eq
  intro i _
  simp only [BitVec.getLsbD_and, BitVec.getLsbD_setWidth]
  by_cases hk : i < k
  · simp [h i hk]
  · simp [BitVec.getLsbD_of_ge v i (by omega)]

/-- An operand widened to a field is read back. -/
theorem extractLsb'_setWidth {k : Nat} (hk : k ≤ 12) (v : BitVec k) :
    (v.setWidth 12).extractLsb' 0 k = v := by
  apply BitVec.eq_of_getLsbD_eq
  intro i hi
  simp [hi]
  omega

/-- A field whose masked bits are zero is its low bits widened. -/
theorem setWidth_extractLsb' {k : Nat} (b m : Index) (hm : ∀ i, i < 12 → m.getLsbD i = decide (k ≤ i))
    (h : b &&& m = 0) : (b.extractLsb' 0 k).setWidth 12 = b := by
  apply BitVec.eq_of_getLsbD_eq
  intro i hi
  have hb := congrArg (fun x : Index => x.getLsbD i) h
  simp only [BitVec.getLsbD_and, hm i hi] at hb
  simp only [BitVec.getLsbD_setWidth, BitVec.getLsbD_extractLsb', Nat.zero_add]
  by_cases hik : i < k
  · simp [hik, hi]
  · simp [hik]
    simpa [Nat.le_of_not_lt hik] using hb.symm

end Sys2Proof
end

