-- ==== Sys2Proof/Laws/State.lean ====
section
/-! SUPPORT. One lemma per field per update of State: what each shared operation writes, and that it leaves
every other field as it is. -/

namespace Sys2Proof.Machine

/-! ### raise -/

@[simp] theorem State.raise_mode (s : State) (k : ErrorKind) : (s.raise k).mode = s.mode := by cases k <;> simp [State.raise]
@[simp] theorem State.raise_taArmed (s : State) (k : ErrorKind) : (s.raise k).taArmed = s.taArmed := by cases k <;> simp [State.raise]
@[simp] theorem State.raise_tbArmed (s : State) (k : ErrorKind) : (s.raise k).tbArmed = s.tbArmed := by cases k <;> simp [State.raise]
@[simp] theorem State.raise_taCmp (s : State) (k : ErrorKind) : (s.raise k).taCmp = s.taCmp := by cases k <;> simp [State.raise]
@[simp] theorem State.raise_tbCmp (s : State) (k : ErrorKind) : (s.raise k).tbCmp = s.tbCmp := by cases k <;> simp [State.raise]
@[simp] theorem State.raise_errCnr (s : State) (k : ErrorKind) : (s.raise k).errCnr = (s.errCnr || decide (k = .chipNotReady)) := by cases k <;> simp [State.raise]
@[simp] theorem State.raise_errBovr (s : State) (k : ErrorKind) : (s.raise k).errBovr = (s.errBovr || decide (k = .bufferOverrun)) := by cases k <;> simp [State.raise]
@[simp] theorem State.raise_errMode (s : State) (k : ErrorKind) : (s.raise k).errMode = (s.errMode || decide (k = .modeConflict)) := by cases k <;> simp [State.raise]
@[simp] theorem State.raise_txReady (s : State) (k : ErrorKind) : (s.raise k).txReady = s.txReady := by cases k <;> simp [State.raise]
@[simp] theorem State.raise_txConsumed (s : State) (k : ErrorKind) : (s.raise k).txConsumed = s.txConsumed := by cases k <;> simp [State.raise]
@[simp] theorem State.raise_apReady (s : State) (k : ErrorKind) : (s.raise k).apReady = s.apReady := by cases k <;> simp [State.raise]
@[simp] theorem State.raise_apDone (s : State) (k : ErrorKind) : (s.raise k).apDone = s.apDone := by cases k <;> simp [State.raise]
@[simp] theorem State.raise_rstate (s : State) (k : ErrorKind) : (s.raise k).rstate = s.rstate := by cases k <;> simp [State.raise]
@[simp] theorem State.raise_rbitcnt (s : State) (k : ErrorKind) : (s.raise k).rbitcnt = s.rbitcnt := by cases k <;> simp [State.raise]
@[simp] theorem State.raise_rcur (s : State) (k : ErrorKind) : (s.raise k).rcur = s.rcur := by cases k <;> simp [State.raise]
@[simp] theorem State.raise_rpause (s : State) (k : ErrorKind) : (s.raise k).rpause = s.rpause := by cases k <;> simp [State.raise]
@[simp] theorem State.raise_txidx (s : State) (k : ErrorKind) : (s.raise k).txidx = s.txidx := by cases k <;> simp [State.raise]
@[simp] theorem State.raise_txlen (s : State) (k : ErrorKind) : (s.raise k).txlen = s.txlen := by cases k <;> simp [State.raise]
@[simp] theorem State.raise_apFs (s : State) (k : ErrorKind) : (s.raise k).apFs = s.apFs := by cases k <;> simp [State.raise]
@[simp] theorem State.raise_apFe (s : State) (k : ErrorKind) : (s.raise k).apFe = s.apFe := by cases k <;> simp [State.raise]
@[simp] theorem State.raise_aidx (s : State) (k : ErrorKind) : (s.raise k).aidx = s.aidx := by cases k <;> simp [State.raise]
@[simp] theorem State.raise_abit (s : State) (k : ErrorKind) : (s.raise k).abit = s.abit := by cases k <;> simp [State.raise]
@[simp] theorem State.raise_atone (s : State) (k : ErrorKind) : (s.raise k).atone = s.atone := by cases k <;> simp [State.raise]
@[simp] theorem State.raise_lcur (s : State) (k : ErrorKind) : (s.raise k).lcur = s.lcur := by cases k <;> simp [State.raise]
@[simp] theorem State.raise_lstep (s : State) (k : ErrorKind) : (s.raise k).lstep = s.lstep := by cases k <;> simp [State.raise]
@[simp] theorem State.raise_txbuf (s : State) (k : ErrorKind) : (s.raise k).txbuf = s.txbuf := by cases k <;> simp [State.raise]
@[simp] theorem State.raise_apbuf (s : State) (k : ErrorKind) : (s.raise k).apbuf = s.apbuf := by cases k <;> simp [State.raise]
@[simp] theorem State.raise_radioTrace (s : State) (k : ErrorKind) : (s.raise k).radioTrace = s.radioTrace := by cases k <;> simp [State.raise]
@[simp] theorem State.raise_rdregValues (s : State) (k : ErrorKind) : (s.raise k).rdregValues = s.rdregValues := by cases k <;> simp [State.raise]
@[simp] theorem State.raise_cfg (s : State) (k : ErrorKind) : (s.raise k).cfg = s.cfg := by cases k <;> simp [State.raise]
@[simp] theorem State.raise_schedule (s : State) (k : ErrorKind) : (s.raise k).schedule = s.schedule := by cases k <;> simp [State.raise]
@[simp] theorem State.raise_scheduleKind (s : State) (k : ErrorKind) : (s.raise k).scheduleKind = s.scheduleKind := by cases k <;> simp [State.raise]
@[simp] theorem State.raise_draws (s : State) (k : ErrorKind) : (s.raise k).draws = s.draws := by cases k <;> simp [State.raise]
@[simp] theorem State.raise_drawCount (s : State) (k : ErrorKind) : (s.raise k).drawCount = s.drawCount := by cases k <;> simp [State.raise]
@[simp] theorem State.raise_choiceCount (s : State) (k : ErrorKind) : (s.raise k).choiceCount = s.choiceCount := by cases k <;> simp [State.raise]

/-! ### raiseIf -/

@[simp] theorem State.raiseIf_mode (s : State) (c : Bool) (k : ErrorKind) : (s.raiseIf c k).mode = s.mode := by cases c <;> simp [State.raiseIf]
@[simp] theorem State.raiseIf_taArmed (s : State) (c : Bool) (k : ErrorKind) : (s.raiseIf c k).taArmed = s.taArmed := by cases c <;> simp [State.raiseIf]
@[simp] theorem State.raiseIf_tbArmed (s : State) (c : Bool) (k : ErrorKind) : (s.raiseIf c k).tbArmed = s.tbArmed := by cases c <;> simp [State.raiseIf]
@[simp] theorem State.raiseIf_taCmp (s : State) (c : Bool) (k : ErrorKind) : (s.raiseIf c k).taCmp = s.taCmp := by cases c <;> simp [State.raiseIf]
@[simp] theorem State.raiseIf_tbCmp (s : State) (c : Bool) (k : ErrorKind) : (s.raiseIf c k).tbCmp = s.tbCmp := by cases c <;> simp [State.raiseIf]
@[simp] theorem State.raiseIf_errCnr (s : State) (c : Bool) (k : ErrorKind) : (s.raiseIf c k).errCnr = (s.errCnr || (c && decide (k = .chipNotReady))) := by cases c <;> simp [State.raiseIf]
@[simp] theorem State.raiseIf_errBovr (s : State) (c : Bool) (k : ErrorKind) : (s.raiseIf c k).errBovr = (s.errBovr || (c && decide (k = .bufferOverrun))) := by cases c <;> simp [State.raiseIf]
@[simp] theorem State.raiseIf_errMode (s : State) (c : Bool) (k : ErrorKind) : (s.raiseIf c k).errMode = (s.errMode || (c && decide (k = .modeConflict))) := by cases c <;> simp [State.raiseIf]
@[simp] theorem State.raiseIf_txReady (s : State) (c : Bool) (k : ErrorKind) : (s.raiseIf c k).txReady = s.txReady := by cases c <;> simp [State.raiseIf]
@[simp] theorem State.raiseIf_txConsumed (s : State) (c : Bool) (k : ErrorKind) : (s.raiseIf c k).txConsumed = s.txConsumed := by cases c <;> simp [State.raiseIf]
@[simp] theorem State.raiseIf_apReady (s : State) (c : Bool) (k : ErrorKind) : (s.raiseIf c k).apReady = s.apReady := by cases c <;> simp [State.raiseIf]
@[simp] theorem State.raiseIf_apDone (s : State) (c : Bool) (k : ErrorKind) : (s.raiseIf c k).apDone = s.apDone := by cases c <;> simp [State.raiseIf]
@[simp] theorem State.raiseIf_rstate (s : State) (c : Bool) (k : ErrorKind) : (s.raiseIf c k).rstate = s.rstate := by cases c <;> simp [State.raiseIf]
@[simp] theorem State.raiseIf_rbitcnt (s : State) (c : Bool) (k : ErrorKind) : (s.raiseIf c k).rbitcnt = s.rbitcnt := by cases c <;> simp [State.raiseIf]
@[simp] theorem State.raiseIf_rcur (s : State) (c : Bool) (k : ErrorKind) : (s.raiseIf c k).rcur = s.rcur := by cases c <;> simp [State.raiseIf]
@[simp] theorem State.raiseIf_rpause (s : State) (c : Bool) (k : ErrorKind) : (s.raiseIf c k).rpause = s.rpause := by cases c <;> simp [State.raiseIf]
@[simp] theorem State.raiseIf_txidx (s : State) (c : Bool) (k : ErrorKind) : (s.raiseIf c k).txidx = s.txidx := by cases c <;> simp [State.raiseIf]
@[simp] theorem State.raiseIf_txlen (s : State) (c : Bool) (k : ErrorKind) : (s.raiseIf c k).txlen = s.txlen := by cases c <;> simp [State.raiseIf]
@[simp] theorem State.raiseIf_apFs (s : State) (c : Bool) (k : ErrorKind) : (s.raiseIf c k).apFs = s.apFs := by cases c <;> simp [State.raiseIf]
@[simp] theorem State.raiseIf_apFe (s : State) (c : Bool) (k : ErrorKind) : (s.raiseIf c k).apFe = s.apFe := by cases c <;> simp [State.raiseIf]
@[simp] theorem State.raiseIf_aidx (s : State) (c : Bool) (k : ErrorKind) : (s.raiseIf c k).aidx = s.aidx := by cases c <;> simp [State.raiseIf]
@[simp] theorem State.raiseIf_abit (s : State) (c : Bool) (k : ErrorKind) : (s.raiseIf c k).abit = s.abit := by cases c <;> simp [State.raiseIf]
@[simp] theorem State.raiseIf_atone (s : State) (c : Bool) (k : ErrorKind) : (s.raiseIf c k).atone = s.atone := by cases c <;> simp [State.raiseIf]
@[simp] theorem State.raiseIf_lcur (s : State) (c : Bool) (k : ErrorKind) : (s.raiseIf c k).lcur = s.lcur := by cases c <;> simp [State.raiseIf]
@[simp] theorem State.raiseIf_lstep (s : State) (c : Bool) (k : ErrorKind) : (s.raiseIf c k).lstep = s.lstep := by cases c <;> simp [State.raiseIf]
@[simp] theorem State.raiseIf_txbuf (s : State) (c : Bool) (k : ErrorKind) : (s.raiseIf c k).txbuf = s.txbuf := by cases c <;> simp [State.raiseIf]
@[simp] theorem State.raiseIf_apbuf (s : State) (c : Bool) (k : ErrorKind) : (s.raiseIf c k).apbuf = s.apbuf := by cases c <;> simp [State.raiseIf]
@[simp] theorem State.raiseIf_radioTrace (s : State) (c : Bool) (k : ErrorKind) : (s.raiseIf c k).radioTrace = s.radioTrace := by cases c <;> simp [State.raiseIf]
@[simp] theorem State.raiseIf_rdregValues (s : State) (c : Bool) (k : ErrorKind) : (s.raiseIf c k).rdregValues = s.rdregValues := by cases c <;> simp [State.raiseIf]
@[simp] theorem State.raiseIf_cfg (s : State) (c : Bool) (k : ErrorKind) : (s.raiseIf c k).cfg = s.cfg := by cases c <;> simp [State.raiseIf]
@[simp] theorem State.raiseIf_schedule (s : State) (c : Bool) (k : ErrorKind) : (s.raiseIf c k).schedule = s.schedule := by cases c <;> simp [State.raiseIf]
@[simp] theorem State.raiseIf_scheduleKind (s : State) (c : Bool) (k : ErrorKind) : (s.raiseIf c k).scheduleKind = s.scheduleKind := by cases c <;> simp [State.raiseIf]
@[simp] theorem State.raiseIf_draws (s : State) (c : Bool) (k : ErrorKind) : (s.raiseIf c k).draws = s.draws := by cases c <;> simp [State.raiseIf]
@[simp] theorem State.raiseIf_drawCount (s : State) (c : Bool) (k : ErrorKind) : (s.raiseIf c k).drawCount = s.drawCount := by cases c <;> simp [State.raiseIf]
@[simp] theorem State.raiseIf_choiceCount (s : State) (c : Bool) (k : ErrorKind) : (s.raiseIf c k).choiceCount = s.choiceCount := by cases c <;> simp [State.raiseIf]

/-! ### clearErrors -/

@[simp] theorem State.clearErrors_mode (s : State) (m : BitVec 3) : (s.clearErrors m).mode = s.mode := rfl
@[simp] theorem State.clearErrors_taArmed (s : State) (m : BitVec 3) : (s.clearErrors m).taArmed = s.taArmed := rfl
@[simp] theorem State.clearErrors_tbArmed (s : State) (m : BitVec 3) : (s.clearErrors m).tbArmed = s.tbArmed := rfl
@[simp] theorem State.clearErrors_taCmp (s : State) (m : BitVec 3) : (s.clearErrors m).taCmp = s.taCmp := rfl
@[simp] theorem State.clearErrors_tbCmp (s : State) (m : BitVec 3) : (s.clearErrors m).tbCmp = s.tbCmp := rfl
@[simp] theorem State.clearErrors_errCnr (s : State) (m : BitVec 3) : (s.clearErrors m).errCnr = (s.errCnr && !m.getLsbD 0) := rfl
@[simp] theorem State.clearErrors_errBovr (s : State) (m : BitVec 3) : (s.clearErrors m).errBovr = (s.errBovr && !m.getLsbD 1) := rfl
@[simp] theorem State.clearErrors_errMode (s : State) (m : BitVec 3) : (s.clearErrors m).errMode = (s.errMode && !m.getLsbD 2) := rfl
@[simp] theorem State.clearErrors_txReady (s : State) (m : BitVec 3) : (s.clearErrors m).txReady = s.txReady := rfl
@[simp] theorem State.clearErrors_txConsumed (s : State) (m : BitVec 3) : (s.clearErrors m).txConsumed = s.txConsumed := rfl
@[simp] theorem State.clearErrors_apReady (s : State) (m : BitVec 3) : (s.clearErrors m).apReady = s.apReady := rfl
@[simp] theorem State.clearErrors_apDone (s : State) (m : BitVec 3) : (s.clearErrors m).apDone = s.apDone := rfl
@[simp] theorem State.clearErrors_rstate (s : State) (m : BitVec 3) : (s.clearErrors m).rstate = s.rstate := rfl
@[simp] theorem State.clearErrors_rbitcnt (s : State) (m : BitVec 3) : (s.clearErrors m).rbitcnt = s.rbitcnt := rfl
@[simp] theorem State.clearErrors_rcur (s : State) (m : BitVec 3) : (s.clearErrors m).rcur = s.rcur := rfl
@[simp] theorem State.clearErrors_rpause (s : State) (m : BitVec 3) : (s.clearErrors m).rpause = s.rpause := rfl
@[simp] theorem State.clearErrors_txidx (s : State) (m : BitVec 3) : (s.clearErrors m).txidx = s.txidx := rfl
@[simp] theorem State.clearErrors_txlen (s : State) (m : BitVec 3) : (s.clearErrors m).txlen = s.txlen := rfl
@[simp] theorem State.clearErrors_apFs (s : State) (m : BitVec 3) : (s.clearErrors m).apFs = s.apFs := rfl
@[simp] theorem State.clearErrors_apFe (s : State) (m : BitVec 3) : (s.clearErrors m).apFe = s.apFe := rfl
@[simp] theorem State.clearErrors_aidx (s : State) (m : BitVec 3) : (s.clearErrors m).aidx = s.aidx := rfl
@[simp] theorem State.clearErrors_abit (s : State) (m : BitVec 3) : (s.clearErrors m).abit = s.abit := rfl
@[simp] theorem State.clearErrors_atone (s : State) (m : BitVec 3) : (s.clearErrors m).atone = s.atone := rfl
@[simp] theorem State.clearErrors_lcur (s : State) (m : BitVec 3) : (s.clearErrors m).lcur = s.lcur := rfl
@[simp] theorem State.clearErrors_lstep (s : State) (m : BitVec 3) : (s.clearErrors m).lstep = s.lstep := rfl
@[simp] theorem State.clearErrors_txbuf (s : State) (m : BitVec 3) : (s.clearErrors m).txbuf = s.txbuf := rfl
@[simp] theorem State.clearErrors_apbuf (s : State) (m : BitVec 3) : (s.clearErrors m).apbuf = s.apbuf := rfl
@[simp] theorem State.clearErrors_radioTrace (s : State) (m : BitVec 3) : (s.clearErrors m).radioTrace = s.radioTrace := rfl
@[simp] theorem State.clearErrors_rdregValues (s : State) (m : BitVec 3) : (s.clearErrors m).rdregValues = s.rdregValues := rfl
@[simp] theorem State.clearErrors_cfg (s : State) (m : BitVec 3) : (s.clearErrors m).cfg = s.cfg := rfl
@[simp] theorem State.clearErrors_schedule (s : State) (m : BitVec 3) : (s.clearErrors m).schedule = s.schedule := rfl
@[simp] theorem State.clearErrors_scheduleKind (s : State) (m : BitVec 3) : (s.clearErrors m).scheduleKind = s.scheduleKind := rfl
@[simp] theorem State.clearErrors_draws (s : State) (m : BitVec 3) : (s.clearErrors m).draws = s.draws := rfl
@[simp] theorem State.clearErrors_drawCount (s : State) (m : BitVec 3) : (s.clearErrors m).drawCount = s.drawCount := rfl
@[simp] theorem State.clearErrors_choiceCount (s : State) (m : BitVec 3) : (s.clearErrors m).choiceCount = s.choiceCount := rfl

/-! ### handOverTx -/

@[simp] theorem State.handOverTx_mode (s : State) : (s.handOverTx).mode = s.mode := rfl
@[simp] theorem State.handOverTx_taArmed (s : State) : (s.handOverTx).taArmed = s.taArmed := rfl
@[simp] theorem State.handOverTx_tbArmed (s : State) : (s.handOverTx).tbArmed = s.tbArmed := rfl
@[simp] theorem State.handOverTx_taCmp (s : State) : (s.handOverTx).taCmp = s.taCmp := rfl
@[simp] theorem State.handOverTx_tbCmp (s : State) : (s.handOverTx).tbCmp = s.tbCmp := rfl
@[simp] theorem State.handOverTx_errCnr (s : State) : (s.handOverTx).errCnr = s.errCnr := rfl
@[simp] theorem State.handOverTx_errBovr (s : State) : (s.handOverTx).errBovr = s.errBovr := rfl
@[simp] theorem State.handOverTx_errMode (s : State) : (s.handOverTx).errMode = s.errMode := rfl
@[simp] theorem State.handOverTx_txReady (s : State) : (s.handOverTx).txReady = true := rfl
@[simp] theorem State.handOverTx_txConsumed (s : State) : (s.handOverTx).txConsumed = false := rfl
@[simp] theorem State.handOverTx_apReady (s : State) : (s.handOverTx).apReady = s.apReady := rfl
@[simp] theorem State.handOverTx_apDone (s : State) : (s.handOverTx).apDone = s.apDone := rfl
@[simp] theorem State.handOverTx_rstate (s : State) : (s.handOverTx).rstate = s.rstate := rfl
@[simp] theorem State.handOverTx_rbitcnt (s : State) : (s.handOverTx).rbitcnt = s.rbitcnt := rfl
@[simp] theorem State.handOverTx_rcur (s : State) : (s.handOverTx).rcur = s.rcur := rfl
@[simp] theorem State.handOverTx_rpause (s : State) : (s.handOverTx).rpause = s.rpause := rfl
@[simp] theorem State.handOverTx_txidx (s : State) : (s.handOverTx).txidx = s.txidx := rfl
@[simp] theorem State.handOverTx_txlen (s : State) : (s.handOverTx).txlen = s.txlen := rfl
@[simp] theorem State.handOverTx_apFs (s : State) : (s.handOverTx).apFs = s.apFs := rfl
@[simp] theorem State.handOverTx_apFe (s : State) : (s.handOverTx).apFe = s.apFe := rfl
@[simp] theorem State.handOverTx_aidx (s : State) : (s.handOverTx).aidx = s.aidx := rfl
@[simp] theorem State.handOverTx_abit (s : State) : (s.handOverTx).abit = s.abit := rfl
@[simp] theorem State.handOverTx_atone (s : State) : (s.handOverTx).atone = s.atone := rfl
@[simp] theorem State.handOverTx_lcur (s : State) : (s.handOverTx).lcur = s.lcur := rfl
@[simp] theorem State.handOverTx_lstep (s : State) : (s.handOverTx).lstep = s.lstep := rfl
@[simp] theorem State.handOverTx_txbuf (s : State) : (s.handOverTx).txbuf = s.txbuf := rfl
@[simp] theorem State.handOverTx_apbuf (s : State) : (s.handOverTx).apbuf = s.apbuf := rfl
@[simp] theorem State.handOverTx_radioTrace (s : State) : (s.handOverTx).radioTrace = s.radioTrace := rfl
@[simp] theorem State.handOverTx_rdregValues (s : State) : (s.handOverTx).rdregValues = s.rdregValues := rfl
@[simp] theorem State.handOverTx_cfg (s : State) : (s.handOverTx).cfg = s.cfg := rfl
@[simp] theorem State.handOverTx_schedule (s : State) : (s.handOverTx).schedule = s.schedule := rfl
@[simp] theorem State.handOverTx_scheduleKind (s : State) : (s.handOverTx).scheduleKind = s.scheduleKind := rfl
@[simp] theorem State.handOverTx_draws (s : State) : (s.handOverTx).draws = s.draws := rfl
@[simp] theorem State.handOverTx_drawCount (s : State) : (s.handOverTx).drawCount = s.drawCount := rfl
@[simp] theorem State.handOverTx_choiceCount (s : State) : (s.handOverTx).choiceCount = s.choiceCount := rfl

/-! ### giveBackTx -/

@[simp] theorem State.giveBackTx_mode (s : State) : (s.giveBackTx).mode = s.mode := rfl
@[simp] theorem State.giveBackTx_taArmed (s : State) : (s.giveBackTx).taArmed = s.taArmed := rfl
@[simp] theorem State.giveBackTx_tbArmed (s : State) : (s.giveBackTx).tbArmed = s.tbArmed := rfl
@[simp] theorem State.giveBackTx_taCmp (s : State) : (s.giveBackTx).taCmp = s.taCmp := rfl
@[simp] theorem State.giveBackTx_tbCmp (s : State) : (s.giveBackTx).tbCmp = s.tbCmp := rfl
@[simp] theorem State.giveBackTx_errCnr (s : State) : (s.giveBackTx).errCnr = s.errCnr := rfl
@[simp] theorem State.giveBackTx_errBovr (s : State) : (s.giveBackTx).errBovr = s.errBovr := rfl
@[simp] theorem State.giveBackTx_errMode (s : State) : (s.giveBackTx).errMode = s.errMode := rfl
@[simp] theorem State.giveBackTx_txReady (s : State) : (s.giveBackTx).txReady = false := rfl
@[simp] theorem State.giveBackTx_txConsumed (s : State) : (s.giveBackTx).txConsumed = true := rfl
@[simp] theorem State.giveBackTx_apReady (s : State) : (s.giveBackTx).apReady = s.apReady := rfl
@[simp] theorem State.giveBackTx_apDone (s : State) : (s.giveBackTx).apDone = s.apDone := rfl
@[simp] theorem State.giveBackTx_rstate (s : State) : (s.giveBackTx).rstate = s.rstate := rfl
@[simp] theorem State.giveBackTx_rbitcnt (s : State) : (s.giveBackTx).rbitcnt = s.rbitcnt := rfl
@[simp] theorem State.giveBackTx_rcur (s : State) : (s.giveBackTx).rcur = s.rcur := rfl
@[simp] theorem State.giveBackTx_rpause (s : State) : (s.giveBackTx).rpause = s.rpause := rfl
@[simp] theorem State.giveBackTx_txidx (s : State) : (s.giveBackTx).txidx = s.txidx := rfl
@[simp] theorem State.giveBackTx_txlen (s : State) : (s.giveBackTx).txlen = s.txlen := rfl
@[simp] theorem State.giveBackTx_apFs (s : State) : (s.giveBackTx).apFs = s.apFs := rfl
@[simp] theorem State.giveBackTx_apFe (s : State) : (s.giveBackTx).apFe = s.apFe := rfl
@[simp] theorem State.giveBackTx_aidx (s : State) : (s.giveBackTx).aidx = s.aidx := rfl
@[simp] theorem State.giveBackTx_abit (s : State) : (s.giveBackTx).abit = s.abit := rfl
@[simp] theorem State.giveBackTx_atone (s : State) : (s.giveBackTx).atone = s.atone := rfl
@[simp] theorem State.giveBackTx_lcur (s : State) : (s.giveBackTx).lcur = s.lcur := rfl
@[simp] theorem State.giveBackTx_lstep (s : State) : (s.giveBackTx).lstep = s.lstep := rfl
@[simp] theorem State.giveBackTx_txbuf (s : State) : (s.giveBackTx).txbuf = s.txbuf := rfl
@[simp] theorem State.giveBackTx_apbuf (s : State) : (s.giveBackTx).apbuf = s.apbuf := rfl
@[simp] theorem State.giveBackTx_radioTrace (s : State) : (s.giveBackTx).radioTrace = s.radioTrace := rfl
@[simp] theorem State.giveBackTx_rdregValues (s : State) : (s.giveBackTx).rdregValues = s.rdregValues := rfl
@[simp] theorem State.giveBackTx_cfg (s : State) : (s.giveBackTx).cfg = s.cfg := rfl
@[simp] theorem State.giveBackTx_schedule (s : State) : (s.giveBackTx).schedule = s.schedule := rfl
@[simp] theorem State.giveBackTx_scheduleKind (s : State) : (s.giveBackTx).scheduleKind = s.scheduleKind := rfl
@[simp] theorem State.giveBackTx_draws (s : State) : (s.giveBackTx).draws = s.draws := rfl
@[simp] theorem State.giveBackTx_drawCount (s : State) : (s.giveBackTx).drawCount = s.drawCount := rfl
@[simp] theorem State.giveBackTx_choiceCount (s : State) : (s.giveBackTx).choiceCount = s.choiceCount := rfl

/-! ### handOverAp -/

@[simp] theorem State.handOverAp_mode (s : State) : (s.handOverAp).mode = s.mode := rfl
@[simp] theorem State.handOverAp_taArmed (s : State) : (s.handOverAp).taArmed = s.taArmed := rfl
@[simp] theorem State.handOverAp_tbArmed (s : State) : (s.handOverAp).tbArmed = s.tbArmed := rfl
@[simp] theorem State.handOverAp_taCmp (s : State) : (s.handOverAp).taCmp = s.taCmp := rfl
@[simp] theorem State.handOverAp_tbCmp (s : State) : (s.handOverAp).tbCmp = s.tbCmp := rfl
@[simp] theorem State.handOverAp_errCnr (s : State) : (s.handOverAp).errCnr = s.errCnr := rfl
@[simp] theorem State.handOverAp_errBovr (s : State) : (s.handOverAp).errBovr = s.errBovr := rfl
@[simp] theorem State.handOverAp_errMode (s : State) : (s.handOverAp).errMode = s.errMode := rfl
@[simp] theorem State.handOverAp_txReady (s : State) : (s.handOverAp).txReady = s.txReady := rfl
@[simp] theorem State.handOverAp_txConsumed (s : State) : (s.handOverAp).txConsumed = s.txConsumed := rfl
@[simp] theorem State.handOverAp_apReady (s : State) : (s.handOverAp).apReady = true := rfl
@[simp] theorem State.handOverAp_apDone (s : State) : (s.handOverAp).apDone = false := rfl
@[simp] theorem State.handOverAp_rstate (s : State) : (s.handOverAp).rstate = s.rstate := rfl
@[simp] theorem State.handOverAp_rbitcnt (s : State) : (s.handOverAp).rbitcnt = s.rbitcnt := rfl
@[simp] theorem State.handOverAp_rcur (s : State) : (s.handOverAp).rcur = s.rcur := rfl
@[simp] theorem State.handOverAp_rpause (s : State) : (s.handOverAp).rpause = s.rpause := rfl
@[simp] theorem State.handOverAp_txidx (s : State) : (s.handOverAp).txidx = s.txidx := rfl
@[simp] theorem State.handOverAp_txlen (s : State) : (s.handOverAp).txlen = s.txlen := rfl
@[simp] theorem State.handOverAp_apFs (s : State) : (s.handOverAp).apFs = s.apFs := rfl
@[simp] theorem State.handOverAp_apFe (s : State) : (s.handOverAp).apFe = s.apFe := rfl
@[simp] theorem State.handOverAp_aidx (s : State) : (s.handOverAp).aidx = s.aidx := rfl
@[simp] theorem State.handOverAp_abit (s : State) : (s.handOverAp).abit = s.abit := rfl
@[simp] theorem State.handOverAp_atone (s : State) : (s.handOverAp).atone = s.atone := rfl
@[simp] theorem State.handOverAp_lcur (s : State) : (s.handOverAp).lcur = s.lcur := rfl
@[simp] theorem State.handOverAp_lstep (s : State) : (s.handOverAp).lstep = s.lstep := rfl
@[simp] theorem State.handOverAp_txbuf (s : State) : (s.handOverAp).txbuf = s.txbuf := rfl
@[simp] theorem State.handOverAp_apbuf (s : State) : (s.handOverAp).apbuf = s.apbuf := rfl
@[simp] theorem State.handOverAp_radioTrace (s : State) : (s.handOverAp).radioTrace = s.radioTrace := rfl
@[simp] theorem State.handOverAp_rdregValues (s : State) : (s.handOverAp).rdregValues = s.rdregValues := rfl
@[simp] theorem State.handOverAp_cfg (s : State) : (s.handOverAp).cfg = s.cfg := rfl
@[simp] theorem State.handOverAp_schedule (s : State) : (s.handOverAp).schedule = s.schedule := rfl
@[simp] theorem State.handOverAp_scheduleKind (s : State) : (s.handOverAp).scheduleKind = s.scheduleKind := rfl
@[simp] theorem State.handOverAp_draws (s : State) : (s.handOverAp).draws = s.draws := rfl
@[simp] theorem State.handOverAp_drawCount (s : State) : (s.handOverAp).drawCount = s.drawCount := rfl
@[simp] theorem State.handOverAp_choiceCount (s : State) : (s.handOverAp).choiceCount = s.choiceCount := rfl

/-! ### giveBackAp -/

@[simp] theorem State.giveBackAp_mode (s : State) : (s.giveBackAp).mode = s.mode := rfl
@[simp] theorem State.giveBackAp_taArmed (s : State) : (s.giveBackAp).taArmed = s.taArmed := rfl
@[simp] theorem State.giveBackAp_tbArmed (s : State) : (s.giveBackAp).tbArmed = s.tbArmed := rfl
@[simp] theorem State.giveBackAp_taCmp (s : State) : (s.giveBackAp).taCmp = s.taCmp := rfl
@[simp] theorem State.giveBackAp_tbCmp (s : State) : (s.giveBackAp).tbCmp = s.tbCmp := rfl
@[simp] theorem State.giveBackAp_errCnr (s : State) : (s.giveBackAp).errCnr = s.errCnr := rfl
@[simp] theorem State.giveBackAp_errBovr (s : State) : (s.giveBackAp).errBovr = s.errBovr := rfl
@[simp] theorem State.giveBackAp_errMode (s : State) : (s.giveBackAp).errMode = s.errMode := rfl
@[simp] theorem State.giveBackAp_txReady (s : State) : (s.giveBackAp).txReady = s.txReady := rfl
@[simp] theorem State.giveBackAp_txConsumed (s : State) : (s.giveBackAp).txConsumed = s.txConsumed := rfl
@[simp] theorem State.giveBackAp_apReady (s : State) : (s.giveBackAp).apReady = false := rfl
@[simp] theorem State.giveBackAp_apDone (s : State) : (s.giveBackAp).apDone = true := rfl
@[simp] theorem State.giveBackAp_rstate (s : State) : (s.giveBackAp).rstate = s.rstate := rfl
@[simp] theorem State.giveBackAp_rbitcnt (s : State) : (s.giveBackAp).rbitcnt = s.rbitcnt := rfl
@[simp] theorem State.giveBackAp_rcur (s : State) : (s.giveBackAp).rcur = s.rcur := rfl
@[simp] theorem State.giveBackAp_rpause (s : State) : (s.giveBackAp).rpause = s.rpause := rfl
@[simp] theorem State.giveBackAp_txidx (s : State) : (s.giveBackAp).txidx = s.txidx := rfl
@[simp] theorem State.giveBackAp_txlen (s : State) : (s.giveBackAp).txlen = s.txlen := rfl
@[simp] theorem State.giveBackAp_apFs (s : State) : (s.giveBackAp).apFs = s.apFs := rfl
@[simp] theorem State.giveBackAp_apFe (s : State) : (s.giveBackAp).apFe = s.apFe := rfl
@[simp] theorem State.giveBackAp_aidx (s : State) : (s.giveBackAp).aidx = s.aidx := rfl
@[simp] theorem State.giveBackAp_abit (s : State) : (s.giveBackAp).abit = s.abit := rfl
@[simp] theorem State.giveBackAp_atone (s : State) : (s.giveBackAp).atone = s.atone := rfl
@[simp] theorem State.giveBackAp_lcur (s : State) : (s.giveBackAp).lcur = s.lcur := rfl
@[simp] theorem State.giveBackAp_lstep (s : State) : (s.giveBackAp).lstep = s.lstep := rfl
@[simp] theorem State.giveBackAp_txbuf (s : State) : (s.giveBackAp).txbuf = s.txbuf := rfl
@[simp] theorem State.giveBackAp_apbuf (s : State) : (s.giveBackAp).apbuf = s.apbuf := rfl
@[simp] theorem State.giveBackAp_radioTrace (s : State) : (s.giveBackAp).radioTrace = s.radioTrace := rfl
@[simp] theorem State.giveBackAp_rdregValues (s : State) : (s.giveBackAp).rdregValues = s.rdregValues := rfl
@[simp] theorem State.giveBackAp_cfg (s : State) : (s.giveBackAp).cfg = s.cfg := rfl
@[simp] theorem State.giveBackAp_schedule (s : State) : (s.giveBackAp).schedule = s.schedule := rfl
@[simp] theorem State.giveBackAp_scheduleKind (s : State) : (s.giveBackAp).scheduleKind = s.scheduleKind := rfl
@[simp] theorem State.giveBackAp_draws (s : State) : (s.giveBackAp).draws = s.draws := rfl
@[simp] theorem State.giveBackAp_drawCount (s : State) : (s.giveBackAp).drawCount = s.drawCount := rfl
@[simp] theorem State.giveBackAp_choiceCount (s : State) : (s.giveBackAp).choiceCount = s.choiceCount := rfl

/-! ### releaseAll -/

@[simp] theorem State.releaseAll_mode (s : State) : (s.releaseAll).mode = s.mode := rfl
@[simp] theorem State.releaseAll_taArmed (s : State) : (s.releaseAll).taArmed = s.taArmed := rfl
@[simp] theorem State.releaseAll_tbArmed (s : State) : (s.releaseAll).tbArmed = s.tbArmed := rfl
@[simp] theorem State.releaseAll_taCmp (s : State) : (s.releaseAll).taCmp = s.taCmp := rfl
@[simp] theorem State.releaseAll_tbCmp (s : State) : (s.releaseAll).tbCmp = s.tbCmp := rfl
@[simp] theorem State.releaseAll_errCnr (s : State) : (s.releaseAll).errCnr = s.errCnr := rfl
@[simp] theorem State.releaseAll_errBovr (s : State) : (s.releaseAll).errBovr = s.errBovr := rfl
@[simp] theorem State.releaseAll_errMode (s : State) : (s.releaseAll).errMode = s.errMode := rfl
@[simp] theorem State.releaseAll_txReady (s : State) : (s.releaseAll).txReady = false := rfl
@[simp] theorem State.releaseAll_txConsumed (s : State) : (s.releaseAll).txConsumed = (s.txReady || s.txConsumed) := rfl
@[simp] theorem State.releaseAll_apReady (s : State) : (s.releaseAll).apReady = false := rfl
@[simp] theorem State.releaseAll_apDone (s : State) : (s.releaseAll).apDone = (s.apReady || s.apDone) := rfl
@[simp] theorem State.releaseAll_rstate (s : State) : (s.releaseAll).rstate = s.rstate := rfl
@[simp] theorem State.releaseAll_rbitcnt (s : State) : (s.releaseAll).rbitcnt = s.rbitcnt := rfl
@[simp] theorem State.releaseAll_rcur (s : State) : (s.releaseAll).rcur = s.rcur := rfl
@[simp] theorem State.releaseAll_rpause (s : State) : (s.releaseAll).rpause = s.rpause := rfl
@[simp] theorem State.releaseAll_txidx (s : State) : (s.releaseAll).txidx = s.txidx := rfl
@[simp] theorem State.releaseAll_txlen (s : State) : (s.releaseAll).txlen = s.txlen := rfl
@[simp] theorem State.releaseAll_apFs (s : State) : (s.releaseAll).apFs = s.apFs := rfl
@[simp] theorem State.releaseAll_apFe (s : State) : (s.releaseAll).apFe = s.apFe := rfl
@[simp] theorem State.releaseAll_aidx (s : State) : (s.releaseAll).aidx = s.aidx := rfl
@[simp] theorem State.releaseAll_abit (s : State) : (s.releaseAll).abit = s.abit := rfl
@[simp] theorem State.releaseAll_atone (s : State) : (s.releaseAll).atone = s.atone := rfl
@[simp] theorem State.releaseAll_lcur (s : State) : (s.releaseAll).lcur = s.lcur := rfl
@[simp] theorem State.releaseAll_lstep (s : State) : (s.releaseAll).lstep = s.lstep := rfl
@[simp] theorem State.releaseAll_txbuf (s : State) : (s.releaseAll).txbuf = s.txbuf := rfl
@[simp] theorem State.releaseAll_apbuf (s : State) : (s.releaseAll).apbuf = s.apbuf := rfl
@[simp] theorem State.releaseAll_radioTrace (s : State) : (s.releaseAll).radioTrace = s.radioTrace := rfl
@[simp] theorem State.releaseAll_rdregValues (s : State) : (s.releaseAll).rdregValues = s.rdregValues := rfl
@[simp] theorem State.releaseAll_cfg (s : State) : (s.releaseAll).cfg = s.cfg := rfl
@[simp] theorem State.releaseAll_schedule (s : State) : (s.releaseAll).schedule = s.schedule := rfl
@[simp] theorem State.releaseAll_scheduleKind (s : State) : (s.releaseAll).scheduleKind = s.scheduleKind := rfl
@[simp] theorem State.releaseAll_draws (s : State) : (s.releaseAll).draws = s.draws := rfl
@[simp] theorem State.releaseAll_drawCount (s : State) : (s.releaseAll).drawCount = s.drawCount := rfl
@[simp] theorem State.releaseAll_choiceCount (s : State) : (s.releaseAll).choiceCount = s.choiceCount := rfl

/-! ### emit -/

@[simp] theorem State.emit_mode (s : State) (hz : Hz) : (s.emit hz).mode = s.mode := rfl
@[simp] theorem State.emit_taArmed (s : State) (hz : Hz) : (s.emit hz).taArmed = s.taArmed := rfl
@[simp] theorem State.emit_tbArmed (s : State) (hz : Hz) : (s.emit hz).tbArmed = s.tbArmed := rfl
@[simp] theorem State.emit_taCmp (s : State) (hz : Hz) : (s.emit hz).taCmp = s.taCmp := rfl
@[simp] theorem State.emit_tbCmp (s : State) (hz : Hz) : (s.emit hz).tbCmp = s.tbCmp := rfl
@[simp] theorem State.emit_errCnr (s : State) (hz : Hz) : (s.emit hz).errCnr = (s.errCnr || !s.radioReady) := rfl
@[simp] theorem State.emit_errBovr (s : State) (hz : Hz) : (s.emit hz).errBovr = s.errBovr := rfl
@[simp] theorem State.emit_errMode (s : State) (hz : Hz) : (s.emit hz).errMode = s.errMode := rfl
@[simp] theorem State.emit_txReady (s : State) (hz : Hz) : (s.emit hz).txReady = s.txReady := rfl
@[simp] theorem State.emit_txConsumed (s : State) (hz : Hz) : (s.emit hz).txConsumed = s.txConsumed := rfl
@[simp] theorem State.emit_apReady (s : State) (hz : Hz) : (s.emit hz).apReady = s.apReady := rfl
@[simp] theorem State.emit_apDone (s : State) (hz : Hz) : (s.emit hz).apDone = s.apDone := rfl
@[simp] theorem State.emit_rstate (s : State) (hz : Hz) : (s.emit hz).rstate = s.rstate := rfl
@[simp] theorem State.emit_rbitcnt (s : State) (hz : Hz) : (s.emit hz).rbitcnt = s.rbitcnt := rfl
@[simp] theorem State.emit_rcur (s : State) (hz : Hz) : (s.emit hz).rcur = s.rcur := rfl
@[simp] theorem State.emit_rpause (s : State) (hz : Hz) : (s.emit hz).rpause = s.rpause := rfl
@[simp] theorem State.emit_txidx (s : State) (hz : Hz) : (s.emit hz).txidx = s.txidx := rfl
@[simp] theorem State.emit_txlen (s : State) (hz : Hz) : (s.emit hz).txlen = s.txlen := rfl
@[simp] theorem State.emit_apFs (s : State) (hz : Hz) : (s.emit hz).apFs = s.apFs := rfl
@[simp] theorem State.emit_apFe (s : State) (hz : Hz) : (s.emit hz).apFe = s.apFe := rfl
@[simp] theorem State.emit_aidx (s : State) (hz : Hz) : (s.emit hz).aidx = s.aidx := rfl
@[simp] theorem State.emit_abit (s : State) (hz : Hz) : (s.emit hz).abit = s.abit := rfl
@[simp] theorem State.emit_atone (s : State) (hz : Hz) : (s.emit hz).atone = s.atone := rfl
@[simp] theorem State.emit_lcur (s : State) (hz : Hz) : (s.emit hz).lcur = s.lcur := rfl
@[simp] theorem State.emit_lstep (s : State) (hz : Hz) : (s.emit hz).lstep = s.lstep := rfl
@[simp] theorem State.emit_txbuf (s : State) (hz : Hz) : (s.emit hz).txbuf = s.txbuf := rfl
@[simp] theorem State.emit_apbuf (s : State) (hz : Hz) : (s.emit hz).apbuf = s.apbuf := rfl
@[simp] theorem State.emit_radioTrace (s : State) (hz : Hz) : (s.emit hz).radioTrace = (if s.radioReady then s.radioTrace ++ [.freqFast hz] else s.radioTrace) := rfl
@[simp] theorem State.emit_rdregValues (s : State) (hz : Hz) : (s.emit hz).rdregValues = s.rdregValues := rfl
@[simp] theorem State.emit_cfg (s : State) (hz : Hz) : (s.emit hz).cfg = s.cfg := rfl
@[simp] theorem State.emit_schedule (s : State) (hz : Hz) : (s.emit hz).schedule = s.schedule := rfl
@[simp] theorem State.emit_scheduleKind (s : State) (hz : Hz) : (s.emit hz).scheduleKind = s.scheduleKind := rfl
@[simp] theorem State.emit_draws (s : State) (hz : Hz) : (s.emit hz).draws = s.draws.tail := rfl
@[simp] theorem State.emit_drawCount (s : State) (hz : Hz) : (s.emit hz).drawCount = s.drawCount + 1 := rfl
@[simp] theorem State.emit_choiceCount (s : State) (hz : Hz) : (s.emit hz).choiceCount = s.choiceCount := rfl

/-! ### stopTimers -/

@[simp] theorem State.stopTimers_mode (s : State) : (s.stopTimers).mode = s.mode := rfl
@[simp] theorem State.stopTimers_taArmed (s : State) : (s.stopTimers).taArmed = false := rfl
@[simp] theorem State.stopTimers_tbArmed (s : State) : (s.stopTimers).tbArmed = false := rfl
@[simp] theorem State.stopTimers_taCmp (s : State) : (s.stopTimers).taCmp = s.taCmp := rfl
@[simp] theorem State.stopTimers_tbCmp (s : State) : (s.stopTimers).tbCmp = s.tbCmp := rfl
@[simp] theorem State.stopTimers_errCnr (s : State) : (s.stopTimers).errCnr = s.errCnr := rfl
@[simp] theorem State.stopTimers_errBovr (s : State) : (s.stopTimers).errBovr = s.errBovr := rfl
@[simp] theorem State.stopTimers_errMode (s : State) : (s.stopTimers).errMode = s.errMode := rfl
@[simp] theorem State.stopTimers_txReady (s : State) : (s.stopTimers).txReady = s.txReady := rfl
@[simp] theorem State.stopTimers_txConsumed (s : State) : (s.stopTimers).txConsumed = s.txConsumed := rfl
@[simp] theorem State.stopTimers_apReady (s : State) : (s.stopTimers).apReady = s.apReady := rfl
@[simp] theorem State.stopTimers_apDone (s : State) : (s.stopTimers).apDone = s.apDone := rfl
@[simp] theorem State.stopTimers_rstate (s : State) : (s.stopTimers).rstate = s.rstate := rfl
@[simp] theorem State.stopTimers_rbitcnt (s : State) : (s.stopTimers).rbitcnt = s.rbitcnt := rfl
@[simp] theorem State.stopTimers_rcur (s : State) : (s.stopTimers).rcur = s.rcur := rfl
@[simp] theorem State.stopTimers_rpause (s : State) : (s.stopTimers).rpause = s.rpause := rfl
@[simp] theorem State.stopTimers_txidx (s : State) : (s.stopTimers).txidx = s.txidx := rfl
@[simp] theorem State.stopTimers_txlen (s : State) : (s.stopTimers).txlen = s.txlen := rfl
@[simp] theorem State.stopTimers_apFs (s : State) : (s.stopTimers).apFs = s.apFs := rfl
@[simp] theorem State.stopTimers_apFe (s : State) : (s.stopTimers).apFe = s.apFe := rfl
@[simp] theorem State.stopTimers_aidx (s : State) : (s.stopTimers).aidx = s.aidx := rfl
@[simp] theorem State.stopTimers_abit (s : State) : (s.stopTimers).abit = s.abit := rfl
@[simp] theorem State.stopTimers_atone (s : State) : (s.stopTimers).atone = s.atone := rfl
@[simp] theorem State.stopTimers_lcur (s : State) : (s.stopTimers).lcur = s.lcur := rfl
@[simp] theorem State.stopTimers_lstep (s : State) : (s.stopTimers).lstep = s.lstep := rfl
@[simp] theorem State.stopTimers_txbuf (s : State) : (s.stopTimers).txbuf = s.txbuf := rfl
@[simp] theorem State.stopTimers_apbuf (s : State) : (s.stopTimers).apbuf = s.apbuf := rfl
@[simp] theorem State.stopTimers_radioTrace (s : State) : (s.stopTimers).radioTrace = s.radioTrace := rfl
@[simp] theorem State.stopTimers_rdregValues (s : State) : (s.stopTimers).rdregValues = s.rdregValues := rfl
@[simp] theorem State.stopTimers_cfg (s : State) : (s.stopTimers).cfg = s.cfg := rfl
@[simp] theorem State.stopTimers_schedule (s : State) : (s.stopTimers).schedule = s.schedule := rfl
@[simp] theorem State.stopTimers_scheduleKind (s : State) : (s.stopTimers).scheduleKind = s.scheduleKind := rfl
@[simp] theorem State.stopTimers_draws (s : State) : (s.stopTimers).draws = s.draws := rfl
@[simp] theorem State.stopTimers_drawCount (s : State) : (s.stopTimers).drawCount = s.drawCount := rfl
@[simp] theorem State.stopTimers_choiceCount (s : State) : (s.stopTimers).choiceCount = s.choiceCount := rfl

/-! ### armA -/

@[simp] theorem State.armA_mode (s : State) (w : Word) : (s.armA w).mode = s.mode := rfl
@[simp] theorem State.armA_taArmed (s : State) (w : Word) : (s.armA w).taArmed = true := rfl
@[simp] theorem State.armA_tbArmed (s : State) (w : Word) : (s.armA w).tbArmed = s.tbArmed := rfl
@[simp] theorem State.armA_taCmp (s : State) (w : Word) : (s.armA w).taCmp = w := rfl
@[simp] theorem State.armA_tbCmp (s : State) (w : Word) : (s.armA w).tbCmp = s.tbCmp := rfl
@[simp] theorem State.armA_errCnr (s : State) (w : Word) : (s.armA w).errCnr = s.errCnr := rfl
@[simp] theorem State.armA_errBovr (s : State) (w : Word) : (s.armA w).errBovr = s.errBovr := rfl
@[simp] theorem State.armA_errMode (s : State) (w : Word) : (s.armA w).errMode = s.errMode := rfl
@[simp] theorem State.armA_txReady (s : State) (w : Word) : (s.armA w).txReady = s.txReady := rfl
@[simp] theorem State.armA_txConsumed (s : State) (w : Word) : (s.armA w).txConsumed = s.txConsumed := rfl
@[simp] theorem State.armA_apReady (s : State) (w : Word) : (s.armA w).apReady = s.apReady := rfl
@[simp] theorem State.armA_apDone (s : State) (w : Word) : (s.armA w).apDone = s.apDone := rfl
@[simp] theorem State.armA_rstate (s : State) (w : Word) : (s.armA w).rstate = s.rstate := rfl
@[simp] theorem State.armA_rbitcnt (s : State) (w : Word) : (s.armA w).rbitcnt = s.rbitcnt := rfl
@[simp] theorem State.armA_rcur (s : State) (w : Word) : (s.armA w).rcur = s.rcur := rfl
@[simp] theorem State.armA_rpause (s : State) (w : Word) : (s.armA w).rpause = s.rpause := rfl
@[simp] theorem State.armA_txidx (s : State) (w : Word) : (s.armA w).txidx = s.txidx := rfl
@[simp] theorem State.armA_txlen (s : State) (w : Word) : (s.armA w).txlen = s.txlen := rfl
@[simp] theorem State.armA_apFs (s : State) (w : Word) : (s.armA w).apFs = s.apFs := rfl
@[simp] theorem State.armA_apFe (s : State) (w : Word) : (s.armA w).apFe = s.apFe := rfl
@[simp] theorem State.armA_aidx (s : State) (w : Word) : (s.armA w).aidx = s.aidx := rfl
@[simp] theorem State.armA_abit (s : State) (w : Word) : (s.armA w).abit = s.abit := rfl
@[simp] theorem State.armA_atone (s : State) (w : Word) : (s.armA w).atone = s.atone := rfl
@[simp] theorem State.armA_lcur (s : State) (w : Word) : (s.armA w).lcur = s.lcur := rfl
@[simp] theorem State.armA_lstep (s : State) (w : Word) : (s.armA w).lstep = s.lstep := rfl
@[simp] theorem State.armA_txbuf (s : State) (w : Word) : (s.armA w).txbuf = s.txbuf := rfl
@[simp] theorem State.armA_apbuf (s : State) (w : Word) : (s.armA w).apbuf = s.apbuf := rfl
@[simp] theorem State.armA_radioTrace (s : State) (w : Word) : (s.armA w).radioTrace = s.radioTrace := rfl
@[simp] theorem State.armA_rdregValues (s : State) (w : Word) : (s.armA w).rdregValues = s.rdregValues := rfl
@[simp] theorem State.armA_cfg (s : State) (w : Word) : (s.armA w).cfg = s.cfg := rfl
@[simp] theorem State.armA_schedule (s : State) (w : Word) : (s.armA w).schedule = s.schedule := rfl
@[simp] theorem State.armA_scheduleKind (s : State) (w : Word) : (s.armA w).scheduleKind = s.scheduleKind := rfl
@[simp] theorem State.armA_draws (s : State) (w : Word) : (s.armA w).draws = s.draws := rfl
@[simp] theorem State.armA_drawCount (s : State) (w : Word) : (s.armA w).drawCount = s.drawCount := rfl
@[simp] theorem State.armA_choiceCount (s : State) (w : Word) : (s.armA w).choiceCount = s.choiceCount := rfl

/-! ### armB -/

@[simp] theorem State.armB_mode (s : State) (w : Word) : (s.armB w).mode = s.mode := rfl
@[simp] theorem State.armB_taArmed (s : State) (w : Word) : (s.armB w).taArmed = s.taArmed := rfl
@[simp] theorem State.armB_tbArmed (s : State) (w : Word) : (s.armB w).tbArmed = true := rfl
@[simp] theorem State.armB_taCmp (s : State) (w : Word) : (s.armB w).taCmp = s.taCmp := rfl
@[simp] theorem State.armB_tbCmp (s : State) (w : Word) : (s.armB w).tbCmp = w := rfl
@[simp] theorem State.armB_errCnr (s : State) (w : Word) : (s.armB w).errCnr = s.errCnr := rfl
@[simp] theorem State.armB_errBovr (s : State) (w : Word) : (s.armB w).errBovr = s.errBovr := rfl
@[simp] theorem State.armB_errMode (s : State) (w : Word) : (s.armB w).errMode = s.errMode := rfl
@[simp] theorem State.armB_txReady (s : State) (w : Word) : (s.armB w).txReady = s.txReady := rfl
@[simp] theorem State.armB_txConsumed (s : State) (w : Word) : (s.armB w).txConsumed = s.txConsumed := rfl
@[simp] theorem State.armB_apReady (s : State) (w : Word) : (s.armB w).apReady = s.apReady := rfl
@[simp] theorem State.armB_apDone (s : State) (w : Word) : (s.armB w).apDone = s.apDone := rfl
@[simp] theorem State.armB_rstate (s : State) (w : Word) : (s.armB w).rstate = s.rstate := rfl
@[simp] theorem State.armB_rbitcnt (s : State) (w : Word) : (s.armB w).rbitcnt = s.rbitcnt := rfl
@[simp] theorem State.armB_rcur (s : State) (w : Word) : (s.armB w).rcur = s.rcur := rfl
@[simp] theorem State.armB_rpause (s : State) (w : Word) : (s.armB w).rpause = s.rpause := rfl
@[simp] theorem State.armB_txidx (s : State) (w : Word) : (s.armB w).txidx = s.txidx := rfl
@[simp] theorem State.armB_txlen (s : State) (w : Word) : (s.armB w).txlen = s.txlen := rfl
@[simp] theorem State.armB_apFs (s : State) (w : Word) : (s.armB w).apFs = s.apFs := rfl
@[simp] theorem State.armB_apFe (s : State) (w : Word) : (s.armB w).apFe = s.apFe := rfl
@[simp] theorem State.armB_aidx (s : State) (w : Word) : (s.armB w).aidx = s.aidx := rfl
@[simp] theorem State.armB_abit (s : State) (w : Word) : (s.armB w).abit = s.abit := rfl
@[simp] theorem State.armB_atone (s : State) (w : Word) : (s.armB w).atone = s.atone := rfl
@[simp] theorem State.armB_lcur (s : State) (w : Word) : (s.armB w).lcur = s.lcur := rfl
@[simp] theorem State.armB_lstep (s : State) (w : Word) : (s.armB w).lstep = s.lstep := rfl
@[simp] theorem State.armB_txbuf (s : State) (w : Word) : (s.armB w).txbuf = s.txbuf := rfl
@[simp] theorem State.armB_apbuf (s : State) (w : Word) : (s.armB w).apbuf = s.apbuf := rfl
@[simp] theorem State.armB_radioTrace (s : State) (w : Word) : (s.armB w).radioTrace = s.radioTrace := rfl
@[simp] theorem State.armB_rdregValues (s : State) (w : Word) : (s.armB w).rdregValues = s.rdregValues := rfl
@[simp] theorem State.armB_cfg (s : State) (w : Word) : (s.armB w).cfg = s.cfg := rfl
@[simp] theorem State.armB_schedule (s : State) (w : Word) : (s.armB w).schedule = s.schedule := rfl
@[simp] theorem State.armB_scheduleKind (s : State) (w : Word) : (s.armB w).scheduleKind = s.scheduleKind := rfl
@[simp] theorem State.armB_draws (s : State) (w : Word) : (s.armB w).draws = s.draws := rfl
@[simp] theorem State.armB_drawCount (s : State) (w : Word) : (s.armB w).drawCount = s.drawCount := rfl
@[simp] theorem State.armB_choiceCount (s : State) (w : Word) : (s.armB w).choiceCount = s.choiceCount := rfl

/-! ### resetEngines -/

@[simp] theorem State.resetEngines_mode (s : State) : (s.resetEngines).mode = s.mode := rfl
@[simp] theorem State.resetEngines_taArmed (s : State) : (s.resetEngines).taArmed = s.taArmed := rfl
@[simp] theorem State.resetEngines_tbArmed (s : State) : (s.resetEngines).tbArmed = s.tbArmed := rfl
@[simp] theorem State.resetEngines_taCmp (s : State) : (s.resetEngines).taCmp = s.taCmp := rfl
@[simp] theorem State.resetEngines_tbCmp (s : State) : (s.resetEngines).tbCmp = s.tbCmp := rfl
@[simp] theorem State.resetEngines_errCnr (s : State) : (s.resetEngines).errCnr = s.errCnr := rfl
@[simp] theorem State.resetEngines_errBovr (s : State) : (s.resetEngines).errBovr = s.errBovr := rfl
@[simp] theorem State.resetEngines_errMode (s : State) : (s.resetEngines).errMode = s.errMode := rfl
@[simp] theorem State.resetEngines_txReady (s : State) : (s.resetEngines).txReady = s.txReady := rfl
@[simp] theorem State.resetEngines_txConsumed (s : State) : (s.resetEngines).txConsumed = s.txConsumed := rfl
@[simp] theorem State.resetEngines_apReady (s : State) : (s.resetEngines).apReady = s.apReady := rfl
@[simp] theorem State.resetEngines_apDone (s : State) : (s.resetEngines).apDone = s.apDone := rfl
@[simp] theorem State.resetEngines_rstate (s : State) : (s.resetEngines).rstate = .wait := rfl
@[simp] theorem State.resetEngines_rbitcnt (s : State) : (s.resetEngines).rbitcnt = 0 := rfl
@[simp] theorem State.resetEngines_rcur (s : State) : (s.resetEngines).rcur = 0 := rfl
@[simp] theorem State.resetEngines_rpause (s : State) : (s.resetEngines).rpause = 0 := rfl
@[simp] theorem State.resetEngines_txidx (s : State) : (s.resetEngines).txidx = 0 := rfl
@[simp] theorem State.resetEngines_txlen (s : State) : (s.resetEngines).txlen = s.txlen := rfl
@[simp] theorem State.resetEngines_apFs (s : State) : (s.resetEngines).apFs = s.apFs := rfl
@[simp] theorem State.resetEngines_apFe (s : State) : (s.resetEngines).apFe = s.apFe := rfl
@[simp] theorem State.resetEngines_aidx (s : State) : (s.resetEngines).aidx = 0 := rfl
@[simp] theorem State.resetEngines_abit (s : State) : (s.resetEngines).abit = 0 := rfl
@[simp] theorem State.resetEngines_atone (s : State) : (s.resetEngines).atone = .t1200 := rfl
@[simp] theorem State.resetEngines_lcur (s : State) : (s.resetEngines).lcur = 0 := rfl
@[simp] theorem State.resetEngines_lstep (s : State) : (s.resetEngines).lstep = 0 := rfl
@[simp] theorem State.resetEngines_txbuf (s : State) : (s.resetEngines).txbuf = s.txbuf := rfl
@[simp] theorem State.resetEngines_apbuf (s : State) : (s.resetEngines).apbuf = s.apbuf := rfl
@[simp] theorem State.resetEngines_radioTrace (s : State) : (s.resetEngines).radioTrace = s.radioTrace := rfl
@[simp] theorem State.resetEngines_rdregValues (s : State) : (s.resetEngines).rdregValues = s.rdregValues := rfl
@[simp] theorem State.resetEngines_cfg (s : State) : (s.resetEngines).cfg = s.cfg := rfl
@[simp] theorem State.resetEngines_schedule (s : State) : (s.resetEngines).schedule = s.schedule := rfl
@[simp] theorem State.resetEngines_scheduleKind (s : State) : (s.resetEngines).scheduleKind = s.scheduleKind := rfl
@[simp] theorem State.resetEngines_draws (s : State) : (s.resetEngines).draws = s.draws := rfl
@[simp] theorem State.resetEngines_drawCount (s : State) : (s.resetEngines).drawCount = s.drawCount := rfl
@[simp] theorem State.resetEngines_choiceCount (s : State) : (s.resetEngines).choiceCount = s.choiceCount := rfl

/-! ### stopPrevious -/

@[simp] theorem State.stopPrevious_mode (s : State) : (s.stopPrevious).mode = s.mode := by simp [State.stopPrevious]
@[simp] theorem State.stopPrevious_taArmed (s : State) : (s.stopPrevious).taArmed = false := by simp [State.stopPrevious]
@[simp] theorem State.stopPrevious_tbArmed (s : State) : (s.stopPrevious).tbArmed = false := by simp [State.stopPrevious]
@[simp] theorem State.stopPrevious_taCmp (s : State) : (s.stopPrevious).taCmp = s.taCmp := by simp [State.stopPrevious]
@[simp] theorem State.stopPrevious_tbCmp (s : State) : (s.stopPrevious).tbCmp = s.tbCmp := by simp [State.stopPrevious]
@[simp] theorem State.stopPrevious_errCnr (s : State) : (s.stopPrevious).errCnr = s.errCnr := by simp [State.stopPrevious]
@[simp] theorem State.stopPrevious_errBovr (s : State) : (s.stopPrevious).errBovr = s.errBovr := by simp [State.stopPrevious]
@[simp] theorem State.stopPrevious_errMode (s : State) : (s.stopPrevious).errMode = (s.errMode || s.anyArmed) := by simp [State.stopPrevious]
@[simp] theorem State.stopPrevious_txReady (s : State) : (s.stopPrevious).txReady = false := by simp [State.stopPrevious]
@[simp] theorem State.stopPrevious_txConsumed (s : State) : (s.stopPrevious).txConsumed = (s.txReady || s.txConsumed) := by simp [State.stopPrevious]
@[simp] theorem State.stopPrevious_apReady (s : State) : (s.stopPrevious).apReady = false := by simp [State.stopPrevious]
@[simp] theorem State.stopPrevious_apDone (s : State) : (s.stopPrevious).apDone = (s.apReady || s.apDone) := by simp [State.stopPrevious]
@[simp] theorem State.stopPrevious_rstate (s : State) : (s.stopPrevious).rstate = .wait := by simp [State.stopPrevious]
@[simp] theorem State.stopPrevious_rbitcnt (s : State) : (s.stopPrevious).rbitcnt = 0 := by simp [State.stopPrevious]
@[simp] theorem State.stopPrevious_rcur (s : State) : (s.stopPrevious).rcur = 0 := by simp [State.stopPrevious]
@[simp] theorem State.stopPrevious_rpause (s : State) : (s.stopPrevious).rpause = 0 := by simp [State.stopPrevious]
@[simp] theorem State.stopPrevious_txidx (s : State) : (s.stopPrevious).txidx = 0 := by simp [State.stopPrevious]
@[simp] theorem State.stopPrevious_txlen (s : State) : (s.stopPrevious).txlen = s.txlen := by simp [State.stopPrevious]
@[simp] theorem State.stopPrevious_apFs (s : State) : (s.stopPrevious).apFs = s.apFs := by simp [State.stopPrevious]
@[simp] theorem State.stopPrevious_apFe (s : State) : (s.stopPrevious).apFe = s.apFe := by simp [State.stopPrevious]
@[simp] theorem State.stopPrevious_aidx (s : State) : (s.stopPrevious).aidx = 0 := by simp [State.stopPrevious]
@[simp] theorem State.stopPrevious_abit (s : State) : (s.stopPrevious).abit = 0 := by simp [State.stopPrevious]
@[simp] theorem State.stopPrevious_atone (s : State) : (s.stopPrevious).atone = .t1200 := by simp [State.stopPrevious]
@[simp] theorem State.stopPrevious_lcur (s : State) : (s.stopPrevious).lcur = 0 := by simp [State.stopPrevious]
@[simp] theorem State.stopPrevious_lstep (s : State) : (s.stopPrevious).lstep = 0 := by simp [State.stopPrevious]
@[simp] theorem State.stopPrevious_txbuf (s : State) : (s.stopPrevious).txbuf = s.txbuf := by simp [State.stopPrevious]
@[simp] theorem State.stopPrevious_apbuf (s : State) : (s.stopPrevious).apbuf = s.apbuf := by simp [State.stopPrevious]
@[simp] theorem State.stopPrevious_radioTrace (s : State) : (s.stopPrevious).radioTrace = s.radioTrace := by simp [State.stopPrevious]
@[simp] theorem State.stopPrevious_rdregValues (s : State) : (s.stopPrevious).rdregValues = s.rdregValues := by simp [State.stopPrevious]
@[simp] theorem State.stopPrevious_cfg (s : State) : (s.stopPrevious).cfg = s.cfg := by simp [State.stopPrevious]
@[simp] theorem State.stopPrevious_schedule (s : State) : (s.stopPrevious).schedule = s.schedule := by simp [State.stopPrevious]
@[simp] theorem State.stopPrevious_scheduleKind (s : State) : (s.stopPrevious).scheduleKind = s.scheduleKind := by simp [State.stopPrevious]
@[simp] theorem State.stopPrevious_draws (s : State) : (s.stopPrevious).draws = s.draws := by simp [State.stopPrevious]
@[simp] theorem State.stopPrevious_drawCount (s : State) : (s.stopPrevious).drawCount = s.drawCount := by simp [State.stopPrevious]
@[simp] theorem State.stopPrevious_choiceCount (s : State) : (s.stopPrevious).choiceCount = s.choiceCount := by simp [State.stopPrevious]

/-! ### rttyComplete -/

@[simp] theorem State.rttyComplete_mode (s : State) : (s.rttyComplete).mode = s.mode := rfl
@[simp] theorem State.rttyComplete_taArmed (s : State) : (s.rttyComplete).taArmed = false := rfl
@[simp] theorem State.rttyComplete_tbArmed (s : State) : (s.rttyComplete).tbArmed = s.tbArmed := rfl
@[simp] theorem State.rttyComplete_taCmp (s : State) : (s.rttyComplete).taCmp = s.taCmp := rfl
@[simp] theorem State.rttyComplete_tbCmp (s : State) : (s.rttyComplete).tbCmp = s.tbCmp := rfl
@[simp] theorem State.rttyComplete_errCnr (s : State) : (s.rttyComplete).errCnr = s.errCnr := rfl
@[simp] theorem State.rttyComplete_errBovr (s : State) : (s.rttyComplete).errBovr = s.errBovr := rfl
@[simp] theorem State.rttyComplete_errMode (s : State) : (s.rttyComplete).errMode = s.errMode := rfl
@[simp] theorem State.rttyComplete_txReady (s : State) : (s.rttyComplete).txReady = false := rfl
@[simp] theorem State.rttyComplete_txConsumed (s : State) : (s.rttyComplete).txConsumed = true := rfl
@[simp] theorem State.rttyComplete_apReady (s : State) : (s.rttyComplete).apReady = s.apReady := rfl
@[simp] theorem State.rttyComplete_apDone (s : State) : (s.rttyComplete).apDone = s.apDone := rfl
@[simp] theorem State.rttyComplete_rstate (s : State) : (s.rttyComplete).rstate = .wait := rfl
@[simp] theorem State.rttyComplete_rbitcnt (s : State) : (s.rttyComplete).rbitcnt = 0 := rfl
@[simp] theorem State.rttyComplete_rcur (s : State) : (s.rttyComplete).rcur = s.rcur := rfl
@[simp] theorem State.rttyComplete_rpause (s : State) : (s.rttyComplete).rpause = s.rpause := rfl
@[simp] theorem State.rttyComplete_txidx (s : State) : (s.rttyComplete).txidx = s.txidx := rfl
@[simp] theorem State.rttyComplete_txlen (s : State) : (s.rttyComplete).txlen = s.txlen := rfl
@[simp] theorem State.rttyComplete_apFs (s : State) : (s.rttyComplete).apFs = s.apFs := rfl
@[simp] theorem State.rttyComplete_apFe (s : State) : (s.rttyComplete).apFe = s.apFe := rfl
@[simp] theorem State.rttyComplete_aidx (s : State) : (s.rttyComplete).aidx = s.aidx := rfl
@[simp] theorem State.rttyComplete_abit (s : State) : (s.rttyComplete).abit = s.abit := rfl
@[simp] theorem State.rttyComplete_atone (s : State) : (s.rttyComplete).atone = s.atone := rfl
@[simp] theorem State.rttyComplete_lcur (s : State) : (s.rttyComplete).lcur = s.lcur := rfl
@[simp] theorem State.rttyComplete_lstep (s : State) : (s.rttyComplete).lstep = s.lstep := rfl
@[simp] theorem State.rttyComplete_txbuf (s : State) : (s.rttyComplete).txbuf = s.txbuf := rfl
@[simp] theorem State.rttyComplete_apbuf (s : State) : (s.rttyComplete).apbuf = s.apbuf := rfl
@[simp] theorem State.rttyComplete_radioTrace (s : State) : (s.rttyComplete).radioTrace = s.radioTrace := rfl
@[simp] theorem State.rttyComplete_rdregValues (s : State) : (s.rttyComplete).rdregValues = s.rdregValues := rfl
@[simp] theorem State.rttyComplete_cfg (s : State) : (s.rttyComplete).cfg = s.cfg := rfl
@[simp] theorem State.rttyComplete_schedule (s : State) : (s.rttyComplete).schedule = s.schedule := rfl
@[simp] theorem State.rttyComplete_scheduleKind (s : State) : (s.rttyComplete).scheduleKind = s.scheduleKind := rfl
@[simp] theorem State.rttyComplete_draws (s : State) : (s.rttyComplete).draws = s.draws := rfl
@[simp] theorem State.rttyComplete_drawCount (s : State) : (s.rttyComplete).drawCount = s.drawCount := rfl
@[simp] theorem State.rttyComplete_choiceCount (s : State) : (s.rttyComplete).choiceCount = s.choiceCount := rfl

/-! ### aprsComplete -/

@[simp] theorem State.aprsComplete_mode (s : State) : (s.aprsComplete).mode = s.mode := rfl
@[simp] theorem State.aprsComplete_taArmed (s : State) : (s.aprsComplete).taArmed = false := rfl
@[simp] theorem State.aprsComplete_tbArmed (s : State) : (s.aprsComplete).tbArmed = false := rfl
@[simp] theorem State.aprsComplete_taCmp (s : State) : (s.aprsComplete).taCmp = s.taCmp := rfl
@[simp] theorem State.aprsComplete_tbCmp (s : State) : (s.aprsComplete).tbCmp = s.tbCmp := rfl
@[simp] theorem State.aprsComplete_errCnr (s : State) : (s.aprsComplete).errCnr = s.errCnr := rfl
@[simp] theorem State.aprsComplete_errBovr (s : State) : (s.aprsComplete).errBovr = s.errBovr := rfl
@[simp] theorem State.aprsComplete_errMode (s : State) : (s.aprsComplete).errMode = s.errMode := rfl
@[simp] theorem State.aprsComplete_txReady (s : State) : (s.aprsComplete).txReady = s.txReady := rfl
@[simp] theorem State.aprsComplete_txConsumed (s : State) : (s.aprsComplete).txConsumed = s.txConsumed := rfl
@[simp] theorem State.aprsComplete_apReady (s : State) : (s.aprsComplete).apReady = false := rfl
@[simp] theorem State.aprsComplete_apDone (s : State) : (s.aprsComplete).apDone = true := rfl
@[simp] theorem State.aprsComplete_rstate (s : State) : (s.aprsComplete).rstate = s.rstate := rfl
@[simp] theorem State.aprsComplete_rbitcnt (s : State) : (s.aprsComplete).rbitcnt = s.rbitcnt := rfl
@[simp] theorem State.aprsComplete_rcur (s : State) : (s.aprsComplete).rcur = s.rcur := rfl
@[simp] theorem State.aprsComplete_rpause (s : State) : (s.aprsComplete).rpause = s.rpause := rfl
@[simp] theorem State.aprsComplete_txidx (s : State) : (s.aprsComplete).txidx = s.txidx := rfl
@[simp] theorem State.aprsComplete_txlen (s : State) : (s.aprsComplete).txlen = s.txlen := rfl
@[simp] theorem State.aprsComplete_apFs (s : State) : (s.aprsComplete).apFs = s.apFs := rfl
@[simp] theorem State.aprsComplete_apFe (s : State) : (s.aprsComplete).apFe = s.apFe := rfl
@[simp] theorem State.aprsComplete_aidx (s : State) : (s.aprsComplete).aidx = s.aidx := rfl
@[simp] theorem State.aprsComplete_abit (s : State) : (s.aprsComplete).abit = s.abit := rfl
@[simp] theorem State.aprsComplete_atone (s : State) : (s.aprsComplete).atone = s.atone := rfl
@[simp] theorem State.aprsComplete_lcur (s : State) : (s.aprsComplete).lcur = s.lcur := rfl
@[simp] theorem State.aprsComplete_lstep (s : State) : (s.aprsComplete).lstep = s.lstep := rfl
@[simp] theorem State.aprsComplete_txbuf (s : State) : (s.aprsComplete).txbuf = s.txbuf := rfl
@[simp] theorem State.aprsComplete_apbuf (s : State) : (s.aprsComplete).apbuf = s.apbuf := rfl
@[simp] theorem State.aprsComplete_radioTrace (s : State) : (s.aprsComplete).radioTrace = s.radioTrace := rfl
@[simp] theorem State.aprsComplete_rdregValues (s : State) : (s.aprsComplete).rdregValues = s.rdregValues := rfl
@[simp] theorem State.aprsComplete_cfg (s : State) : (s.aprsComplete).cfg = s.cfg := rfl
@[simp] theorem State.aprsComplete_schedule (s : State) : (s.aprsComplete).schedule = s.schedule := rfl
@[simp] theorem State.aprsComplete_scheduleKind (s : State) : (s.aprsComplete).scheduleKind = s.scheduleKind := rfl
@[simp] theorem State.aprsComplete_draws (s : State) : (s.aprsComplete).draws = s.draws := rfl
@[simp] theorem State.aprsComplete_drawCount (s : State) : (s.aprsComplete).drawCount = s.drawCount := rfl
@[simp] theorem State.aprsComplete_choiceCount (s : State) : (s.aprsComplete).choiceCount = s.choiceCount := rfl

/-! ### advanceBit -/

@[simp] theorem State.advanceBit_mode (s : State) : (s.advanceBit).mode = s.mode := by unfold State.advanceBit; split <;> simp_all
@[simp] theorem State.advanceBit_taArmed (s : State) : (s.advanceBit).taArmed = s.taArmed := by unfold State.advanceBit; split <;> simp_all
@[simp] theorem State.advanceBit_tbArmed (s : State) : (s.advanceBit).tbArmed = s.tbArmed := by unfold State.advanceBit; split <;> simp_all
@[simp] theorem State.advanceBit_taCmp (s : State) : (s.advanceBit).taCmp = s.taCmp := by unfold State.advanceBit; split <;> simp_all
@[simp] theorem State.advanceBit_tbCmp (s : State) : (s.advanceBit).tbCmp = s.tbCmp := by unfold State.advanceBit; split <;> simp_all
@[simp] theorem State.advanceBit_errCnr (s : State) : (s.advanceBit).errCnr = s.errCnr := by unfold State.advanceBit; split <;> simp_all
@[simp] theorem State.advanceBit_errBovr (s : State) : (s.advanceBit).errBovr = s.errBovr := by unfold State.advanceBit; split <;> simp_all
@[simp] theorem State.advanceBit_errMode (s : State) : (s.advanceBit).errMode = s.errMode := by unfold State.advanceBit; split <;> simp_all
@[simp] theorem State.advanceBit_txReady (s : State) : (s.advanceBit).txReady = s.txReady := by unfold State.advanceBit; split <;> simp_all
@[simp] theorem State.advanceBit_txConsumed (s : State) : (s.advanceBit).txConsumed = s.txConsumed := by unfold State.advanceBit; split <;> simp_all
@[simp] theorem State.advanceBit_apReady (s : State) : (s.advanceBit).apReady = s.apReady := by unfold State.advanceBit; split <;> simp_all
@[simp] theorem State.advanceBit_apDone (s : State) : (s.advanceBit).apDone = s.apDone := by unfold State.advanceBit; split <;> simp_all
@[simp] theorem State.advanceBit_rstate (s : State) : (s.advanceBit).rstate = s.rstate := by unfold State.advanceBit; split <;> simp_all
@[simp] theorem State.advanceBit_rbitcnt (s : State) : (s.advanceBit).rbitcnt = s.rbitcnt := by unfold State.advanceBit; split <;> simp_all
@[simp] theorem State.advanceBit_rcur (s : State) : (s.advanceBit).rcur = s.rcur := by unfold State.advanceBit; split <;> simp_all
@[simp] theorem State.advanceBit_rpause (s : State) : (s.advanceBit).rpause = s.rpause := by unfold State.advanceBit; split <;> simp_all
@[simp] theorem State.advanceBit_txidx (s : State) : (s.advanceBit).txidx = s.txidx := by unfold State.advanceBit; split <;> simp_all
@[simp] theorem State.advanceBit_txlen (s : State) : (s.advanceBit).txlen = s.txlen := by unfold State.advanceBit; split <;> simp_all
@[simp] theorem State.advanceBit_apFs (s : State) : (s.advanceBit).apFs = s.apFs := by unfold State.advanceBit; split <;> simp_all
@[simp] theorem State.advanceBit_apFe (s : State) : (s.advanceBit).apFe = s.apFe := by unfold State.advanceBit; split <;> simp_all
@[simp] theorem State.advanceBit_aidx (s : State) : (s.advanceBit).aidx = (if s.abit = 7 then s.aidx + 1 else s.aidx) := by unfold State.advanceBit; split <;> simp_all
@[simp] theorem State.advanceBit_abit (s : State) : (s.advanceBit).abit = s.abit + 1 := by unfold State.advanceBit; split <;> simp_all
@[simp] theorem State.advanceBit_atone (s : State) : (s.advanceBit).atone = s.atone := by unfold State.advanceBit; split <;> simp_all
@[simp] theorem State.advanceBit_lcur (s : State) : (s.advanceBit).lcur = s.lcur := by unfold State.advanceBit; split <;> simp_all
@[simp] theorem State.advanceBit_lstep (s : State) : (s.advanceBit).lstep = s.lstep := by unfold State.advanceBit; split <;> simp_all
@[simp] theorem State.advanceBit_txbuf (s : State) : (s.advanceBit).txbuf = s.txbuf := by unfold State.advanceBit; split <;> simp_all
@[simp] theorem State.advanceBit_apbuf (s : State) : (s.advanceBit).apbuf = s.apbuf := by unfold State.advanceBit; split <;> simp_all
@[simp] theorem State.advanceBit_radioTrace (s : State) : (s.advanceBit).radioTrace = s.radioTrace := by unfold State.advanceBit; split <;> simp_all
@[simp] theorem State.advanceBit_rdregValues (s : State) : (s.advanceBit).rdregValues = s.rdregValues := by unfold State.advanceBit; split <;> simp_all
@[simp] theorem State.advanceBit_cfg (s : State) : (s.advanceBit).cfg = s.cfg := by unfold State.advanceBit; split <;> simp_all
@[simp] theorem State.advanceBit_schedule (s : State) : (s.advanceBit).schedule = s.schedule := by unfold State.advanceBit; split <;> simp_all
@[simp] theorem State.advanceBit_scheduleKind (s : State) : (s.advanceBit).scheduleKind = s.scheduleKind := by unfold State.advanceBit; split <;> simp_all
@[simp] theorem State.advanceBit_draws (s : State) : (s.advanceBit).draws = s.draws := by unfold State.advanceBit; split <;> simp_all
@[simp] theorem State.advanceBit_drawCount (s : State) : (s.advanceBit).drawCount = s.drawCount := by unfold State.advanceBit; split <;> simp_all
@[simp] theorem State.advanceBit_choiceCount (s : State) : (s.advanceBit).choiceCount = s.choiceCount := by unfold State.advanceBit; split <;> simp_all

/-! ### setTone -/

@[simp] theorem State.setTone_mode (s : State) (t : Tone) : (s.setTone t).mode = s.mode := rfl
@[simp] theorem State.setTone_taArmed (s : State) (t : Tone) : (s.setTone t).taArmed = s.taArmed := rfl
@[simp] theorem State.setTone_tbArmed (s : State) (t : Tone) : (s.setTone t).tbArmed = s.tbArmed := rfl
@[simp] theorem State.setTone_taCmp (s : State) (t : Tone) : (s.setTone t).taCmp = s.taCmp := rfl
@[simp] theorem State.setTone_tbCmp (s : State) (t : Tone) : (s.setTone t).tbCmp = s.tbCmp := rfl
@[simp] theorem State.setTone_errCnr (s : State) (t : Tone) : (s.setTone t).errCnr = s.errCnr := rfl
@[simp] theorem State.setTone_errBovr (s : State) (t : Tone) : (s.setTone t).errBovr = s.errBovr := rfl
@[simp] theorem State.setTone_errMode (s : State) (t : Tone) : (s.setTone t).errMode = s.errMode := rfl
@[simp] theorem State.setTone_txReady (s : State) (t : Tone) : (s.setTone t).txReady = s.txReady := rfl
@[simp] theorem State.setTone_txConsumed (s : State) (t : Tone) : (s.setTone t).txConsumed = s.txConsumed := rfl
@[simp] theorem State.setTone_apReady (s : State) (t : Tone) : (s.setTone t).apReady = s.apReady := rfl
@[simp] theorem State.setTone_apDone (s : State) (t : Tone) : (s.setTone t).apDone = s.apDone := rfl
@[simp] theorem State.setTone_rstate (s : State) (t : Tone) : (s.setTone t).rstate = s.rstate := rfl
@[simp] theorem State.setTone_rbitcnt (s : State) (t : Tone) : (s.setTone t).rbitcnt = s.rbitcnt := rfl
@[simp] theorem State.setTone_rcur (s : State) (t : Tone) : (s.setTone t).rcur = s.rcur := rfl
@[simp] theorem State.setTone_rpause (s : State) (t : Tone) : (s.setTone t).rpause = s.rpause := rfl
@[simp] theorem State.setTone_txidx (s : State) (t : Tone) : (s.setTone t).txidx = s.txidx := rfl
@[simp] theorem State.setTone_txlen (s : State) (t : Tone) : (s.setTone t).txlen = s.txlen := rfl
@[simp] theorem State.setTone_apFs (s : State) (t : Tone) : (s.setTone t).apFs = s.apFs := rfl
@[simp] theorem State.setTone_apFe (s : State) (t : Tone) : (s.setTone t).apFe = s.apFe := rfl
@[simp] theorem State.setTone_aidx (s : State) (t : Tone) : (s.setTone t).aidx = s.aidx := rfl
@[simp] theorem State.setTone_abit (s : State) (t : Tone) : (s.setTone t).abit = s.abit := rfl
@[simp] theorem State.setTone_atone (s : State) (t : Tone) : (s.setTone t).atone = t := rfl
@[simp] theorem State.setTone_lcur (s : State) (t : Tone) : (s.setTone t).lcur = s.lcur := rfl
@[simp] theorem State.setTone_lstep (s : State) (t : Tone) : (s.setTone t).lstep = s.lstep := rfl
@[simp] theorem State.setTone_txbuf (s : State) (t : Tone) : (s.setTone t).txbuf = s.txbuf := rfl
@[simp] theorem State.setTone_apbuf (s : State) (t : Tone) : (s.setTone t).apbuf = s.apbuf := rfl
@[simp] theorem State.setTone_radioTrace (s : State) (t : Tone) : (s.setTone t).radioTrace = s.radioTrace := rfl
@[simp] theorem State.setTone_rdregValues (s : State) (t : Tone) : (s.setTone t).rdregValues = s.rdregValues := rfl
@[simp] theorem State.setTone_cfg (s : State) (t : Tone) : (s.setTone t).cfg = s.cfg := rfl
@[simp] theorem State.setTone_schedule (s : State) (t : Tone) : (s.setTone t).schedule = s.schedule := rfl
@[simp] theorem State.setTone_scheduleKind (s : State) (t : Tone) : (s.setTone t).scheduleKind = s.scheduleKind := rfl
@[simp] theorem State.setTone_draws (s : State) (t : Tone) : (s.setTone t).draws = s.draws := rfl
@[simp] theorem State.setTone_drawCount (s : State) (t : Tone) : (s.setTone t).drawCount = s.drawCount := rfl
@[simp] theorem State.setTone_choiceCount (s : State) (t : Tone) : (s.setTone t).choiceCount = s.choiceCount := rfl

/-! ### toneTransition -/

@[simp] theorem State.toneTransition_mode (s : State) : (s.toneTransition).mode = s.mode := rfl
@[simp] theorem State.toneTransition_taArmed (s : State) : (s.toneTransition).taArmed = s.taArmed := rfl
@[simp] theorem State.toneTransition_tbArmed (s : State) : (s.toneTransition).tbArmed = s.tbArmed := rfl
@[simp] theorem State.toneTransition_taCmp (s : State) : (s.toneTransition).taCmp = s.taCmp := rfl
@[simp] theorem State.toneTransition_tbCmp (s : State) : (s.toneTransition).tbCmp = s.tbCmp := rfl
@[simp] theorem State.toneTransition_errCnr (s : State) : (s.toneTransition).errCnr = s.errCnr := rfl
@[simp] theorem State.toneTransition_errBovr (s : State) : (s.toneTransition).errBovr = s.errBovr := rfl
@[simp] theorem State.toneTransition_errMode (s : State) : (s.toneTransition).errMode = s.errMode := rfl
@[simp] theorem State.toneTransition_txReady (s : State) : (s.toneTransition).txReady = s.txReady := rfl
@[simp] theorem State.toneTransition_txConsumed (s : State) : (s.toneTransition).txConsumed = s.txConsumed := rfl
@[simp] theorem State.toneTransition_apReady (s : State) : (s.toneTransition).apReady = s.apReady := rfl
@[simp] theorem State.toneTransition_apDone (s : State) : (s.toneTransition).apDone = s.apDone := rfl
@[simp] theorem State.toneTransition_rstate (s : State) : (s.toneTransition).rstate = s.rstate := rfl
@[simp] theorem State.toneTransition_rbitcnt (s : State) : (s.toneTransition).rbitcnt = s.rbitcnt := rfl
@[simp] theorem State.toneTransition_rcur (s : State) : (s.toneTransition).rcur = s.rcur := rfl
@[simp] theorem State.toneTransition_rpause (s : State) : (s.toneTransition).rpause = s.rpause := rfl
@[simp] theorem State.toneTransition_txidx (s : State) : (s.toneTransition).txidx = s.txidx := rfl
@[simp] theorem State.toneTransition_txlen (s : State) : (s.toneTransition).txlen = s.txlen := rfl
@[simp] theorem State.toneTransition_apFs (s : State) : (s.toneTransition).apFs = s.apFs := rfl
@[simp] theorem State.toneTransition_apFe (s : State) : (s.toneTransition).apFe = s.apFe := rfl
@[simp] theorem State.toneTransition_aidx (s : State) : (s.toneTransition).aidx = s.aidx := rfl
@[simp] theorem State.toneTransition_abit (s : State) : (s.toneTransition).abit = s.abit := rfl
@[simp] theorem State.toneTransition_atone (s : State) : (s.toneTransition).atone = otherTone s.atone := rfl
@[simp] theorem State.toneTransition_lcur (s : State) : (s.toneTransition).lcur = 0 := rfl
@[simp] theorem State.toneTransition_lstep (s : State) : (s.toneTransition).lstep = toneStep s.cfg (otherTone s.atone) := rfl
@[simp] theorem State.toneTransition_txbuf (s : State) : (s.toneTransition).txbuf = s.txbuf := rfl
@[simp] theorem State.toneTransition_apbuf (s : State) : (s.toneTransition).apbuf = s.apbuf := rfl
@[simp] theorem State.toneTransition_radioTrace (s : State) : (s.toneTransition).radioTrace = s.radioTrace := rfl
@[simp] theorem State.toneTransition_rdregValues (s : State) : (s.toneTransition).rdregValues = s.rdregValues := rfl
@[simp] theorem State.toneTransition_cfg (s : State) : (s.toneTransition).cfg = s.cfg := rfl
@[simp] theorem State.toneTransition_schedule (s : State) : (s.toneTransition).schedule = s.schedule := rfl
@[simp] theorem State.toneTransition_scheduleKind (s : State) : (s.toneTransition).scheduleKind = s.scheduleKind := rfl
@[simp] theorem State.toneTransition_draws (s : State) : (s.toneTransition).draws = s.draws := rfl
@[simp] theorem State.toneTransition_drawCount (s : State) : (s.toneTransition).drawCount = s.drawCount := rfl
@[simp] theorem State.toneTransition_choiceCount (s : State) : (s.toneTransition).choiceCount = s.choiceCount := rfl

/-! ### rttyPause -/

@[simp] theorem State.rttyPause_mode (s : State) : (s.rttyPause).mode = s.mode := by unfold State.rttyPause; split <;> simp_all
@[simp] theorem State.rttyPause_taArmed (s : State) : (s.rttyPause).taArmed = s.taArmed := by unfold State.rttyPause; split <;> simp_all
@[simp] theorem State.rttyPause_tbArmed (s : State) : (s.rttyPause).tbArmed = s.tbArmed := by unfold State.rttyPause; split <;> simp_all
@[simp] theorem State.rttyPause_taCmp (s : State) : (s.rttyPause).taCmp = s.taCmp := by unfold State.rttyPause; split <;> simp_all
@[simp] theorem State.rttyPause_tbCmp (s : State) : (s.rttyPause).tbCmp = s.tbCmp := by unfold State.rttyPause; split <;> simp_all
@[simp] theorem State.rttyPause_errCnr (s : State) : (s.rttyPause).errCnr = s.errCnr := by unfold State.rttyPause; split <;> simp_all
@[simp] theorem State.rttyPause_errBovr (s : State) : (s.rttyPause).errBovr = s.errBovr := by unfold State.rttyPause; split <;> simp_all
@[simp] theorem State.rttyPause_errMode (s : State) : (s.rttyPause).errMode = s.errMode := by unfold State.rttyPause; split <;> simp_all
@[simp] theorem State.rttyPause_txReady (s : State) : (s.rttyPause).txReady = s.txReady := by unfold State.rttyPause; split <;> simp_all
@[simp] theorem State.rttyPause_txConsumed (s : State) : (s.rttyPause).txConsumed = s.txConsumed := by unfold State.rttyPause; split <;> simp_all
@[simp] theorem State.rttyPause_apReady (s : State) : (s.rttyPause).apReady = s.apReady := by unfold State.rttyPause; split <;> simp_all
@[simp] theorem State.rttyPause_apDone (s : State) : (s.rttyPause).apDone = s.apDone := by unfold State.rttyPause; split <;> simp_all
@[simp] theorem State.rttyPause_rstate (s : State) : (s.rttyPause).rstate = (if s.rpause ≤ 1 then .startbit else s.rstate) := by unfold State.rttyPause; split <;> simp_all
@[simp] theorem State.rttyPause_rbitcnt (s : State) : (s.rttyPause).rbitcnt = s.rbitcnt := by unfold State.rttyPause; split <;> simp_all
@[simp] theorem State.rttyPause_rcur (s : State) : (s.rttyPause).rcur = s.rcur := by unfold State.rttyPause; split <;> simp_all
@[simp] theorem State.rttyPause_rpause (s : State) : (s.rttyPause).rpause = (if s.rpause ≤ 1 then 0 else s.rpause - 1) := by unfold State.rttyPause; split <;> simp_all
@[simp] theorem State.rttyPause_txidx (s : State) : (s.rttyPause).txidx = s.txidx := by unfold State.rttyPause; split <;> simp_all
@[simp] theorem State.rttyPause_txlen (s : State) : (s.rttyPause).txlen = s.txlen := by unfold State.rttyPause; split <;> simp_all
@[simp] theorem State.rttyPause_apFs (s : State) : (s.rttyPause).apFs = s.apFs := by unfold State.rttyPause; split <;> simp_all
@[simp] theorem State.rttyPause_apFe (s : State) : (s.rttyPause).apFe = s.apFe := by unfold State.rttyPause; split <;> simp_all
@[simp] theorem State.rttyPause_aidx (s : State) : (s.rttyPause).aidx = s.aidx := by unfold State.rttyPause; split <;> simp_all
@[simp] theorem State.rttyPause_abit (s : State) : (s.rttyPause).abit = s.abit := by unfold State.rttyPause; split <;> simp_all
@[simp] theorem State.rttyPause_atone (s : State) : (s.rttyPause).atone = s.atone := by unfold State.rttyPause; split <;> simp_all
@[simp] theorem State.rttyPause_lcur (s : State) : (s.rttyPause).lcur = s.lcur := by unfold State.rttyPause; split <;> simp_all
@[simp] theorem State.rttyPause_lstep (s : State) : (s.rttyPause).lstep = s.lstep := by unfold State.rttyPause; split <;> simp_all
@[simp] theorem State.rttyPause_txbuf (s : State) : (s.rttyPause).txbuf = s.txbuf := by unfold State.rttyPause; split <;> simp_all
@[simp] theorem State.rttyPause_apbuf (s : State) : (s.rttyPause).apbuf = s.apbuf := by unfold State.rttyPause; split <;> simp_all
@[simp] theorem State.rttyPause_radioTrace (s : State) : (s.rttyPause).radioTrace = s.radioTrace := by unfold State.rttyPause; split <;> simp_all
@[simp] theorem State.rttyPause_rdregValues (s : State) : (s.rttyPause).rdregValues = s.rdregValues := by unfold State.rttyPause; split <;> simp_all
@[simp] theorem State.rttyPause_cfg (s : State) : (s.rttyPause).cfg = s.cfg := by unfold State.rttyPause; split <;> simp_all
@[simp] theorem State.rttyPause_schedule (s : State) : (s.rttyPause).schedule = s.schedule := by unfold State.rttyPause; split <;> simp_all
@[simp] theorem State.rttyPause_scheduleKind (s : State) : (s.rttyPause).scheduleKind = s.scheduleKind := by unfold State.rttyPause; split <;> simp_all
@[simp] theorem State.rttyPause_draws (s : State) : (s.rttyPause).draws = s.draws := by unfold State.rttyPause; split <;> simp_all
@[simp] theorem State.rttyPause_drawCount (s : State) : (s.rttyPause).drawCount = s.drawCount := by unfold State.rttyPause; split <;> simp_all
@[simp] theorem State.rttyPause_choiceCount (s : State) : (s.rttyPause).choiceCount = s.choiceCount := by unfold State.rttyPause; split <;> simp_all

/-! ### rttyByte -/

@[simp] theorem State.rttyByte_mode (s : State) : (s.rttyByte).mode = s.mode := by unfold State.rttyByte; split <;> simp_all
@[simp] theorem State.rttyByte_taArmed (s : State) : (s.rttyByte).taArmed = s.taArmed := by unfold State.rttyByte; split <;> simp_all
@[simp] theorem State.rttyByte_tbArmed (s : State) : (s.rttyByte).tbArmed = s.tbArmed := by unfold State.rttyByte; split <;> simp_all
@[simp] theorem State.rttyByte_taCmp (s : State) : (s.rttyByte).taCmp = s.taCmp := by unfold State.rttyByte; split <;> simp_all
@[simp] theorem State.rttyByte_tbCmp (s : State) : (s.rttyByte).tbCmp = s.tbCmp := by unfold State.rttyByte; split <;> simp_all
@[simp] theorem State.rttyByte_errCnr (s : State) : (s.rttyByte).errCnr = (s.errCnr || !s.radioReady) := by unfold State.rttyByte; split <;> simp_all
@[simp] theorem State.rttyByte_errBovr (s : State) : (s.rttyByte).errBovr = s.errBovr := by unfold State.rttyByte; split <;> simp_all
@[simp] theorem State.rttyByte_errMode (s : State) : (s.rttyByte).errMode = s.errMode := by unfold State.rttyByte; split <;> simp_all
@[simp] theorem State.rttyByte_txReady (s : State) : (s.rttyByte).txReady = s.txReady := by unfold State.rttyByte; split <;> simp_all
@[simp] theorem State.rttyByte_txConsumed (s : State) : (s.rttyByte).txConsumed = s.txConsumed := by unfold State.rttyByte; split <;> simp_all
@[simp] theorem State.rttyByte_apReady (s : State) : (s.rttyByte).apReady = s.apReady := by unfold State.rttyByte; split <;> simp_all
@[simp] theorem State.rttyByte_apDone (s : State) : (s.rttyByte).apDone = s.apDone := by unfold State.rttyByte; split <;> simp_all
@[simp] theorem State.rttyByte_rstate (s : State) : (s.rttyByte).rstate = (if s.rbitcnt ≤ 1 then .stopbit else s.rstate) := by unfold State.rttyByte; split <;> simp_all
@[simp] theorem State.rttyByte_rbitcnt (s : State) : (s.rttyByte).rbitcnt = (if s.rbitcnt ≤ 1 then stopBitCount s.cfg.rttyNstop else s.rbitcnt - 1) := by unfold State.rttyByte; split <;> simp_all
@[simp] theorem State.rttyByte_rcur (s : State) : (s.rttyByte).rcur = s.rcur >>> 1 := by unfold State.rttyByte; split <;> simp_all
@[simp] theorem State.rttyByte_rpause (s : State) : (s.rttyByte).rpause = s.rpause := by unfold State.rttyByte; split <;> simp_all
@[simp] theorem State.rttyByte_txidx (s : State) : (s.rttyByte).txidx = s.txidx := by unfold State.rttyByte; split <;> simp_all
@[simp] theorem State.rttyByte_txlen (s : State) : (s.rttyByte).txlen = s.txlen := by unfold State.rttyByte; split <;> simp_all
@[simp] theorem State.rttyByte_apFs (s : State) : (s.rttyByte).apFs = s.apFs := by unfold State.rttyByte; split <;> simp_all
@[simp] theorem State.rttyByte_apFe (s : State) : (s.rttyByte).apFe = s.apFe := by unfold State.rttyByte; split <;> simp_all
@[simp] theorem State.rttyByte_aidx (s : State) : (s.rttyByte).aidx = s.aidx := by unfold State.rttyByte; split <;> simp_all
@[simp] theorem State.rttyByte_abit (s : State) : (s.rttyByte).abit = s.abit := by unfold State.rttyByte; split <;> simp_all
@[simp] theorem State.rttyByte_atone (s : State) : (s.rttyByte).atone = s.atone := by unfold State.rttyByte; split <;> simp_all
@[simp] theorem State.rttyByte_lcur (s : State) : (s.rttyByte).lcur = s.lcur := by unfold State.rttyByte; split <;> simp_all
@[simp] theorem State.rttyByte_lstep (s : State) : (s.rttyByte).lstep = s.lstep := by unfold State.rttyByte; split <;> simp_all
@[simp] theorem State.rttyByte_txbuf (s : State) : (s.rttyByte).txbuf = s.txbuf := by unfold State.rttyByte; split <;> simp_all
@[simp] theorem State.rttyByte_apbuf (s : State) : (s.rttyByte).apbuf = s.apbuf := by unfold State.rttyByte; split <;> simp_all
@[simp] theorem State.rttyByte_radioTrace (s : State) : (s.rttyByte).radioTrace = (s.emit (symbolHz s.cfg (s.rcur.getLsbD 0))).radioTrace := by unfold State.rttyByte; split <;> simp_all
@[simp] theorem State.rttyByte_rdregValues (s : State) : (s.rttyByte).rdregValues = s.rdregValues := by unfold State.rttyByte; split <;> simp_all
@[simp] theorem State.rttyByte_cfg (s : State) : (s.rttyByte).cfg = s.cfg := by unfold State.rttyByte; split <;> simp_all
@[simp] theorem State.rttyByte_schedule (s : State) : (s.rttyByte).schedule = s.schedule := by unfold State.rttyByte; split <;> simp_all
@[simp] theorem State.rttyByte_scheduleKind (s : State) : (s.rttyByte).scheduleKind = s.scheduleKind := by unfold State.rttyByte; split <;> simp_all
@[simp] theorem State.rttyByte_draws (s : State) : (s.rttyByte).draws = s.draws.tail := by unfold State.rttyByte; split <;> simp_all
@[simp] theorem State.rttyByte_drawCount (s : State) : (s.rttyByte).drawCount = s.drawCount + 1 := by unfold State.rttyByte; split <;> simp_all
@[simp] theorem State.rttyByte_choiceCount (s : State) : (s.rttyByte).choiceCount = s.choiceCount := by unfold State.rttyByte; split <;> simp_all

/-! ### rttyStop -/

@[simp] theorem State.rttyStop_mode (s : State) : (s.rttyStop).mode = s.mode := by unfold State.rttyStop; split <;> split <;> simp_all
@[simp] theorem State.rttyStop_taArmed (s : State) : (s.rttyStop).taArmed = s.taArmed := by unfold State.rttyStop; split <;> split <;> simp_all
@[simp] theorem State.rttyStop_tbArmed (s : State) : (s.rttyStop).tbArmed = s.tbArmed := by unfold State.rttyStop; split <;> split <;> simp_all
@[simp] theorem State.rttyStop_taCmp (s : State) : (s.rttyStop).taCmp = s.taCmp := by unfold State.rttyStop; split <;> split <;> simp_all
@[simp] theorem State.rttyStop_tbCmp (s : State) : (s.rttyStop).tbCmp = s.tbCmp := by unfold State.rttyStop; split <;> split <;> simp_all
@[simp] theorem State.rttyStop_errBovr (s : State) : (s.rttyStop).errBovr = s.errBovr := by unfold State.rttyStop; split <;> split <;> simp_all
@[simp] theorem State.rttyStop_errMode (s : State) : (s.rttyStop).errMode = s.errMode := by unfold State.rttyStop; split <;> split <;> simp_all
@[simp] theorem State.rttyStop_txReady (s : State) : (s.rttyStop).txReady = s.txReady := by unfold State.rttyStop; split <;> split <;> simp_all
@[simp] theorem State.rttyStop_txConsumed (s : State) : (s.rttyStop).txConsumed = s.txConsumed := by unfold State.rttyStop; split <;> split <;> simp_all
@[simp] theorem State.rttyStop_apReady (s : State) : (s.rttyStop).apReady = s.apReady := by unfold State.rttyStop; split <;> split <;> simp_all
@[simp] theorem State.rttyStop_apDone (s : State) : (s.rttyStop).apDone = s.apDone := by unfold State.rttyStop; split <;> split <;> simp_all
@[simp] theorem State.rttyStop_rstate (s : State) : (s.rttyStop).rstate = (if s.rbitcnt ≤ 1 then .reload else s.rstate) := by unfold State.rttyStop; split <;> split <;> simp_all
@[simp] theorem State.rttyStop_rbitcnt (s : State) : (s.rttyStop).rbitcnt = (if s.rbitcnt ≤ 1 then 0 else s.rbitcnt - 1) := by unfold State.rttyStop; split <;> split <;> simp_all
@[simp] theorem State.rttyStop_rcur (s : State) : (s.rttyStop).rcur = s.rcur := by unfold State.rttyStop; split <;> split <;> simp_all
@[simp] theorem State.rttyStop_rpause (s : State) : (s.rttyStop).rpause = s.rpause := by unfold State.rttyStop; split <;> split <;> simp_all
@[simp] theorem State.rttyStop_txidx (s : State) : (s.rttyStop).txidx = s.txidx := by unfold State.rttyStop; split <;> split <;> simp_all
@[simp] theorem State.rttyStop_txlen (s : State) : (s.rttyStop).txlen = s.txlen := by unfold State.rttyStop; split <;> split <;> simp_all
@[simp] theorem State.rttyStop_apFs (s : State) : (s.rttyStop).apFs = s.apFs := by unfold State.rttyStop; split <;> split <;> simp_all
@[simp] theorem State.rttyStop_apFe (s : State) : (s.rttyStop).apFe = s.apFe := by unfold State.rttyStop; split <;> split <;> simp_all
@[simp] theorem State.rttyStop_aidx (s : State) : (s.rttyStop).aidx = s.aidx := by unfold State.rttyStop; split <;> split <;> simp_all
@[simp] theorem State.rttyStop_abit (s : State) : (s.rttyStop).abit = s.abit := by unfold State.rttyStop; split <;> split <;> simp_all
@[simp] theorem State.rttyStop_atone (s : State) : (s.rttyStop).atone = s.atone := by unfold State.rttyStop; split <;> split <;> simp_all
@[simp] theorem State.rttyStop_lcur (s : State) : (s.rttyStop).lcur = s.lcur := by unfold State.rttyStop; split <;> split <;> simp_all
@[simp] theorem State.rttyStop_lstep (s : State) : (s.rttyStop).lstep = s.lstep := by unfold State.rttyStop; split <;> split <;> simp_all
@[simp] theorem State.rttyStop_txbuf (s : State) : (s.rttyStop).txbuf = s.txbuf := by unfold State.rttyStop; split <;> split <;> simp_all
@[simp] theorem State.rttyStop_apbuf (s : State) : (s.rttyStop).apbuf = s.apbuf := by unfold State.rttyStop; split <;> split <;> simp_all
@[simp] theorem State.rttyStop_rdregValues (s : State) : (s.rttyStop).rdregValues = s.rdregValues := by unfold State.rttyStop; split <;> split <;> simp_all
@[simp] theorem State.rttyStop_cfg (s : State) : (s.rttyStop).cfg = s.cfg := by unfold State.rttyStop; split <;> split <;> simp_all
@[simp] theorem State.rttyStop_schedule (s : State) : (s.rttyStop).schedule = s.schedule := by unfold State.rttyStop; split <;> split <;> simp_all
@[simp] theorem State.rttyStop_scheduleKind (s : State) : (s.rttyStop).scheduleKind = s.scheduleKind := by unfold State.rttyStop; split <;> split <;> simp_all
@[simp] theorem State.rttyStop_choiceCount (s : State) : (s.rttyStop).choiceCount = s.choiceCount := by unfold State.rttyStop; split <;> split <;> simp_all
@[simp] theorem State.rttyStop_errCnr (s : State) : (s.rttyStop).errCnr = (if s.rbitcnt = stopBitCount s.cfg.rttyNstop then (s.emit s.cfg.fRttyMark).errCnr else s.errCnr) := by unfold State.rttyStop; split <;> split <;> rfl
@[simp] theorem State.rttyStop_radioTrace (s : State) : (s.rttyStop).radioTrace = (if s.rbitcnt = stopBitCount s.cfg.rttyNstop then (s.emit s.cfg.fRttyMark).radioTrace else s.radioTrace) := by unfold State.rttyStop; split <;> split <;> rfl
@[simp] theorem State.rttyStop_draws (s : State) : (s.rttyStop).draws = (if s.rbitcnt = stopBitCount s.cfg.rttyNstop then (s.emit s.cfg.fRttyMark).draws else s.draws) := by unfold State.rttyStop; split <;> split <;> rfl
@[simp] theorem State.rttyStop_drawCount (s : State) : (s.rttyStop).drawCount = (if s.rbitcnt = stopBitCount s.cfg.rttyNstop then (s.emit s.cfg.fRttyMark).drawCount else s.drawCount) := by unfold State.rttyStop; split <;> split <;> rfl

/-! ### consumeEvent -/

@[simp] theorem State.consumeEvent_mode (s : State) : (s.consumeEvent).mode = s.mode := by unfold State.consumeEvent; split <;> simp_all
@[simp] theorem State.consumeEvent_taArmed (s : State) : (s.consumeEvent).taArmed = s.taArmed := by unfold State.consumeEvent; split <;> simp_all
@[simp] theorem State.consumeEvent_tbArmed (s : State) : (s.consumeEvent).tbArmed = s.tbArmed := by unfold State.consumeEvent; split <;> simp_all
@[simp] theorem State.consumeEvent_taCmp (s : State) : (s.consumeEvent).taCmp = s.taCmp := by unfold State.consumeEvent; split <;> simp_all
@[simp] theorem State.consumeEvent_tbCmp (s : State) : (s.consumeEvent).tbCmp = s.tbCmp := by unfold State.consumeEvent; split <;> simp_all
@[simp] theorem State.consumeEvent_errCnr (s : State) : (s.consumeEvent).errCnr = s.errCnr := by unfold State.consumeEvent; split <;> simp_all
@[simp] theorem State.consumeEvent_errBovr (s : State) : (s.consumeEvent).errBovr = s.errBovr := by unfold State.consumeEvent; split <;> simp_all
@[simp] theorem State.consumeEvent_errMode (s : State) : (s.consumeEvent).errMode = s.errMode := by unfold State.consumeEvent; split <;> simp_all
@[simp] theorem State.consumeEvent_txReady (s : State) : (s.consumeEvent).txReady = s.txReady := by unfold State.consumeEvent; split <;> simp_all
@[simp] theorem State.consumeEvent_txConsumed (s : State) : (s.consumeEvent).txConsumed = s.txConsumed := by unfold State.consumeEvent; split <;> simp_all
@[simp] theorem State.consumeEvent_apReady (s : State) : (s.consumeEvent).apReady = s.apReady := by unfold State.consumeEvent; split <;> simp_all
@[simp] theorem State.consumeEvent_apDone (s : State) : (s.consumeEvent).apDone = s.apDone := by unfold State.consumeEvent; split <;> simp_all
@[simp] theorem State.consumeEvent_rstate (s : State) : (s.consumeEvent).rstate = s.rstate := by unfold State.consumeEvent; split <;> simp_all
@[simp] theorem State.consumeEvent_rbitcnt (s : State) : (s.consumeEvent).rbitcnt = s.rbitcnt := by unfold State.consumeEvent; split <;> simp_all
@[simp] theorem State.consumeEvent_rcur (s : State) : (s.consumeEvent).rcur = s.rcur := by unfold State.consumeEvent; split <;> simp_all
@[simp] theorem State.consumeEvent_rpause (s : State) : (s.consumeEvent).rpause = s.rpause := by unfold State.consumeEvent; split <;> simp_all
@[simp] theorem State.consumeEvent_txidx (s : State) : (s.consumeEvent).txidx = s.txidx := by unfold State.consumeEvent; split <;> simp_all
@[simp] theorem State.consumeEvent_txlen (s : State) : (s.consumeEvent).txlen = s.txlen := by unfold State.consumeEvent; split <;> simp_all
@[simp] theorem State.consumeEvent_apFs (s : State) : (s.consumeEvent).apFs = s.apFs := by unfold State.consumeEvent; split <;> simp_all
@[simp] theorem State.consumeEvent_apFe (s : State) : (s.consumeEvent).apFe = s.apFe := by unfold State.consumeEvent; split <;> simp_all
@[simp] theorem State.consumeEvent_aidx (s : State) : (s.consumeEvent).aidx = s.aidx := by unfold State.consumeEvent; split <;> simp_all
@[simp] theorem State.consumeEvent_abit (s : State) : (s.consumeEvent).abit = s.abit := by unfold State.consumeEvent; split <;> simp_all
@[simp] theorem State.consumeEvent_atone (s : State) : (s.consumeEvent).atone = s.atone := by unfold State.consumeEvent; split <;> simp_all
@[simp] theorem State.consumeEvent_lcur (s : State) : (s.consumeEvent).lcur = s.lcur := by unfold State.consumeEvent; split <;> simp_all
@[simp] theorem State.consumeEvent_lstep (s : State) : (s.consumeEvent).lstep = s.lstep := by unfold State.consumeEvent; split <;> simp_all
@[simp] theorem State.consumeEvent_txbuf (s : State) : (s.consumeEvent).txbuf = s.txbuf := by unfold State.consumeEvent; split <;> simp_all
@[simp] theorem State.consumeEvent_apbuf (s : State) : (s.consumeEvent).apbuf = s.apbuf := by unfold State.consumeEvent; split <;> simp_all
@[simp] theorem State.consumeEvent_radioTrace (s : State) : (s.consumeEvent).radioTrace = s.radioTrace := by unfold State.consumeEvent; split <;> simp_all
@[simp] theorem State.consumeEvent_rdregValues (s : State) : (s.consumeEvent).rdregValues = s.rdregValues := by unfold State.consumeEvent; split <;> simp_all
@[simp] theorem State.consumeEvent_cfg (s : State) : (s.consumeEvent).cfg = s.cfg := by unfold State.consumeEvent; split <;> simp_all
@[simp] theorem State.consumeEvent_scheduleKind (s : State) : (s.consumeEvent).scheduleKind = s.scheduleKind := by unfold State.consumeEvent; split <;> simp_all
@[simp] theorem State.consumeEvent_schedule (s : State) : (s.consumeEvent).schedule = s.schedule.tail := by unfold State.consumeEvent; split <;> simp_all
@[simp] theorem State.consumeEvent_draws (s : State) : (s.consumeEvent).draws = s.draws := by unfold State.consumeEvent; split <;> simp_all
@[simp] theorem State.consumeEvent_drawCount (s : State) : (s.consumeEvent).drawCount = s.drawCount := by unfold State.consumeEvent; split <;> simp_all

end Sys2Proof.Machine
end

