-- ==== Sys2Proof/Laws/Ops.lean ====
section
/-! SUPPORT. What each shared operation can do, said once: buffer reads and writes and their canonical form,
character loads and bit fetches, the two setups, the emission. Proofs cite these and unfold nothing. -/

namespace Sys2Proof.Machine

/-! ### Buffers -/

theorem Memory.read_write_same (m : Memory) (i : Nat) (v : Byte) : (m.write i v).read i = some v := by
  induction m with
  | nil => simp [Memory.write, Memory.read]
  | cons p m ih =>
    obtain ⟨a, b⟩ := p
    simp only [Memory.write]
    split
    · simp [Memory.read]
    · split
      · simp [Memory.read]
      · simp [Memory.read, *]

theorem Memory.read_write_other (m : Memory) (i j : Nat) (v : Byte) (h : j ≠ i) :
    (m.write i v).read j = m.read j := by
  induction m with
  | nil => simp [Memory.write, Memory.read, h]
  | cons p m ih =>
    obtain ⟨a, b⟩ := p
    simp only [Memory.write]
    split
    · simp [Memory.read, h]
    · split
      · subst a; simp [Memory.read, h]
      · simp [Memory.read, ih]

theorem Memory.risingFrom_write (m : Memory) (lo i : Nat) (v : Byte) (hi : lo ≤ i)
    (h : Memory.risingFrom lo m = true) : Memory.risingFrom lo (m.write i v) = true := by
  induction m generalizing lo with
  | nil => simp [Memory.write, Memory.risingFrom, hi]
  | cons p m ih =>
    obtain ⟨a, b⟩ := p
    simp only [Memory.risingFrom, Bool.and_eq_true, decide_eq_true_eq] at h
    simp only [Memory.write]
    split
    · simp [Memory.risingFrom, hi, h.2]; omega
    · split
      · subst a; simp [Memory.risingFrom, hi, h.2]
      · simp only [Memory.risingFrom, Bool.and_eq_true, decide_eq_true_eq]
        exact ⟨h.1, ih (a + 1) (by omega) h.2⟩

/-- Every write keeps the canonical form. -/
theorem Memory.wf_write (m : Memory) (i : Nat) (v : Byte) (h : m.wf = true) : (m.write i v).wf = true :=
  Memory.risingFrom_write m 0 i v (Nat.zero_le i) h

theorem Memory.within_write (cap : Nat) (m : Memory) (i : Nat) (v : Byte) (hi : i < cap)
    (h : m.within cap = true) : (m.write i v).within cap = true := by
  induction m with
  | nil => simp [Memory.write, Memory.within, hi]
  | cons p m ih =>
    obtain ⟨a, b⟩ := p
    simp only [Memory.within, List.all_cons, Bool.and_eq_true, decide_eq_true_eq] at h ih
    simp only [Memory.write]
    split
    · simp [Memory.within, hi, h.1]; simpa using h.2
    · split
      · simp [Memory.within, hi]; simpa using h.2
      · simp only [Memory.within, List.all_cons, Bool.and_eq_true, decide_eq_true_eq]
        exact ⟨h.1, ih h.2⟩

/-- Reset memory, which lists nothing, is canonical. -/
theorem Memory.wf_reset (c : Config) :
    (State.resetWith c).txbuf.wf = true ∧ (State.resetWith c).apbuf.wf = true := ⟨rfl, rfl⟩

/-- A read inside the capacity of a written byte. -/
theorem readByte_written {cap : Nat} {m : Memory} {i : Index} {b : Byte} (hi : i.toNat < cap)
    (h : m.read i.toNat = some b) : readByte cap m i = .ok b := by simp [readByte, hi, h]

/-- A read inside the capacity of a byte never written. -/
theorem readByte_unwritten {cap : Nat} {m : Memory} {i : Index} (hi : i.toNat < cap)
    (h : m.read i.toNat = none) : readByte cap m i = .error .unwrittenBufferRead := by
  simp [readByte, hi, h]

/-- An engine's read answers a written byte inside the capacity, or one of two faults. -/
theorem readByte_cases (cap : Nat) (m : Memory) (i : Index) :
    (∃ b, i.toNat < cap ∧ m.read i.toNat = some b ∧ readByte cap m i = .ok b)
      ∨ (i.toNat < cap ∧ readByte cap m i = .error .unwrittenBufferRead)
      ∨ (cap ≤ i.toNat ∧ readByte cap m i = .error .indexOutsideBuffer) := by
  by_cases hi : i.toNat < cap
  · cases h : m.read i.toNat with
    | none => exact .inr (.inl ⟨hi, readByte_unwritten hi h⟩)
    | some b => exact .inl ⟨b, hi, rfl, readByte_written hi h⟩
  · exact .inr (.inr ⟨Nat.le_of_not_lt hi, by simp [readByte, hi]⟩)

/-! ### The radio port -/

/-- `emit` as Safety states it. -/
theorem State.emit_emitted (s : State) (hz : Hz) : emitted s (s.emit hz) hz := by
  unfold emitted
  simp
  cases s.radioReady <;> simp

/-! ### The registers read back (R45) -/

/-- TCTRL as a number. -/
theorem State.tctrl_toNat (s : State) : s.tctrl.toNat = s.taArmed.toNat + 2 * s.tbArmed.toNat := by
  unfold State.tctrl; cases s.taArmed <;> cases s.tbArmed <;> rfl

/-- STATUS as a number. -/
theorem State.status_toNat (s : State) :
    s.status.toNat = s.errCnr.toNat + 2 * s.errBovr.toNat + 4 * s.errMode.toNat := by
  unfold State.status; cases s.errCnr <;> cases s.errBovr <;> cases s.errMode <;> rfl

/-- FLAGS as a number. -/
theorem State.flags_toNat (s : State) :
    s.flags.toNat = s.txReady.toNat + 2 * s.txConsumed.toNat + 4 * s.apReady.toNat + 8 * s.apDone.toNat := by
  unfold State.flags
  cases s.txReady <;> cases s.txConsumed <;> cases s.apReady <;> cases s.apDone <;> rfl

/-- Widening a register of at most 32 bits keeps its number. -/
theorem toNat_zext {k : Nat} (hk : k ≤ 32) (v : BitVec k) : (v.setWidth 32).toNat = v.toNat := by
  rw [BitVec.toNat_setWidth]
  exact Nat.mod_eq_of_lt (lt_of_lt_of_le v.isLt (Nat.pow_le_pow_right (by omega) hk))

/-- A counter is at most 1 as its number is. -/
theorem le_one_iff {k : Nat} (hk : 1 < k) (x : BitVec k) : x ≤ 1 ↔ x.toNat ≤ 1 := by
  have h1 : (1 : BitVec k).toNat = 1 := by simp [BitVec.toNat_ofNat]; omega
  rw [BitVec.le_def, h1]

/-- A counter above 1 counts down by exactly one. -/
theorem sub_one_toNat {k : Nat} (hk : 1 < k) (x : BitVec k) (h : 1 < x.toNat) :
    (x - 1).toNat + 1 = x.toNat := by
  have h1 : (1 : BitVec k).toNat = 1 := by simp [BitVec.toNat_ofNat]; omega
  rw [BitVec.toNat_sub_of_le (by rw [BitVec.le_def, h1]; omega), h1]
  omega

/-! ### The RTTY engine -/

/-- The state `start_char` leaves when the byte `b` was loaded. -/
def State.charStarted (s : State) (b : Byte) : State :=
  { s.emit s.cfg.fRttySpace with
    rcur := b
    txidx := s.txidx + 1
    rbitcnt := dataBitCount s.cfg.rttyNbits
    rstate := .byte }

/-- STARTBIT and RELOAD: completion, a character started, or a fault of the load. -/
theorem State.rttyCharOrDone_cases (s : State) :
    (s.txlen ≤ s.txidx ∧ s.rttyCharOrDone = .next s.rttyComplete)
      ∨ (∃ b, s.txidx < s.txlen ∧ s.loadChar = .ok b ∧ s.rttyCharOrDone = .next (s.charStarted b))
      ∨ (∃ f, s.txidx < s.txlen ∧ s.loadChar = .error f ∧ s.rttyCharOrDone = .fault f) := by
  unfold State.rttyCharOrDone State.startChar
  by_cases h : s.txidx < s.txlen
  · rw [if_pos h]
    cases hl : s.loadChar with
    | ok b => exact .inr (.inl ⟨b, h, rfl, rfl⟩)
    | error f => exact .inr (.inr ⟨f, h, rfl, rfl⟩)
  · rw [if_neg h]
    exact .inl ⟨by simpa using h, rfl⟩

/-- The faults of a character load. -/
theorem State.loadChar_error {s : State} {f : Fault} (h : s.loadChar = .error f) :
    f = .unwrittenBufferRead ∨ f = .indexOutsideBuffer ∧ s.cfg.txCap ≤ s.txidx.toNat := by
  unfold State.loadChar at h
  rcases readByte_cases s.cfg.txCap s.txbuf s.txidx with ⟨b, -, -, hb⟩ | ⟨-, hb⟩ | ⟨hc, hb⟩ <;>
    rw [hb] at h <;> cases h
  · exact .inl rfl
  · exact .inr ⟨rfl, hc⟩

/-- `rtty_setup`: too long, zero, or ready to arm. -/
theorem State.rttySetup_cases (s : State) (n : Index) :
    (s.cfg.txCap < n.toNat ∧ s.rttySetup n = .returned (s.stopPrevious.raise .bufferOverrun))
      ∨ (n.toNat ≤ s.cfg.txCap ∧ n = 0
        ∧ s.rttySetup n = .returned { s.stopPrevious with mode := .rttyInterrupt, txlen := n })
      ∨ (n.toNat ≤ s.cfg.txCap ∧ n ≠ 0
        ∧ s.rttySetup n = .proceed
          { State.handOverTx { s.stopPrevious with mode := .rttyInterrupt, txlen := n } with
            rpause := s.cfg.rttyPauseTicks, rstate := startState s.cfg.rttyPauseTicks }) := by
  simp only [State.rttySetup, State.stopPrevious_cfg]
  by_cases h : s.cfg.txCap < n.toNat
  · exact .inl ⟨h, by rw [if_pos h]⟩
  · rw [if_neg h]
    by_cases h0 : n = 0
    · exact .inr (.inl ⟨Nat.le_of_not_lt h, h0, by rw [if_pos h0]⟩)
    · exact .inr (.inr ⟨Nat.le_of_not_lt h, h0, by rw [if_neg h0]⟩)

/-! ### The APRS engines -/

/-- `aprs_setup`: too long, empty, or ready to arm. -/
theorem State.aprsSetup_cases (s : State) (fs fe : Index) (m : Mode) :
    (s.cfg.apCap < fe.toNat ∧ s.aprsSetup fs fe m = .returned (s.stopPrevious.raise .bufferOverrun))
      ∨ (fe.toNat ≤ s.cfg.apCap ∧ fe ≤ fs
        ∧ s.aprsSetup fs fe m
          = .returned { s.stopPrevious with mode := m, apFs := fs, apFe := fe, aidx := fs })
      ∨ (fe.toNat ≤ s.cfg.apCap ∧ fs < fe
        ∧ s.aprsSetup fs fe m = .proceed
          (State.handOverAp { s.stopPrevious with mode := m, apFs := fs, apFe := fe, aidx := fs })) := by
  simp only [State.aprsSetup, State.stopPrevious_cfg]
  by_cases h : s.cfg.apCap < fe.toNat
  · exact .inl ⟨h, by rw [if_pos h]⟩
  · rw [if_neg h]
    by_cases h0 : fe ≤ fs
    · exact .inr (.inl ⟨Nat.le_of_not_lt h, h0, by rw [if_pos h0]⟩)
    · exact .inr (.inr ⟨Nat.le_of_not_lt h, BitVec.not_le.mp h0, by rw [if_neg h0]⟩)

/-- `next_bit`: a bit of a written byte inside the capacity and the advanced cursor, or a fault. -/
theorem State.nextBit_cases (s : State) :
    (∃ v, s.aidx.toNat < s.cfg.apCap ∧ s.apbuf.read s.aidx.toNat = some v
        ∧ s.nextBit = .ok (v.getLsbD s.abit.toNat, s.advanceBit))
      ∨ (s.aidx.toNat < s.cfg.apCap ∧ s.nextBit = .error .unwrittenBufferRead)
      ∨ (s.cfg.apCap ≤ s.aidx.toNat ∧ s.nextBit = .error .indexOutsideBuffer) := by
  unfold State.nextBit State.fetchByte
  rcases readByte_cases s.cfg.apCap s.apbuf s.aidx with ⟨v, hi, hr, hb⟩ | ⟨hi, hb⟩ | ⟨hc, hb⟩
  · exact .inl ⟨v, hi, hr, by rw [hb]⟩
  · exact .inr (.inl ⟨hi, by rw [hb]⟩)
  · exact .inr (.inr ⟨hc, by rw [hb]⟩)

/-- The cursor counts bits: it advances by exactly one while the byte index has room. -/
theorem State.advanceBit_position (s : State) (h : s.aidx.toNat < 4095) :
    8 * s.advanceBit.aidx.toNat + s.advanceBit.abit.toNat = 8 * s.aidx.toNat + s.abit.toNat + 1 := by
  have hb := s.abit.isLt
  simp only [State.advanceBit_aidx, State.advanceBit_abit, BitVec.toNat_add]
  by_cases h7 : s.abit = 7
  · simp [h7, BitVec.toNat_add]; omega
  · rw [if_neg h7]
    have : s.abit.toNat ≠ 7 := fun e => h7 (BitVec.eq_of_toNat_eq e)
    simp; omega

/-! ### The waveform table and the lookup scaling -/

/-- Every sample is in 1 to 255 (R143 (a)). -/
theorem sample_range (k : Byte) : 1 ≤ (sample k).toNat ∧ (sample k).toNat ≤ 255 := by
  revert k; decide

/-- The two ends of the linear scaling decide all samples 1 to 255, as R11 states the condition. -/
theorem lutScaleOk_iff (f m o : Int) :
    lutScaleOk f m o = true
      ↔ ∀ v : Nat, 1 ≤ v → v ≤ 255 → 0 ≤ f + m * v + o ∧ f + m * v + o < 4294967296 := by
  simp only [lutScaleOk, hzInRange, Bool.and_eq_true, decide_eq_true_eq]
  constructor
  · rintro ⟨⟨h1, h2⟩, h3, h4⟩ v hv hv'
    rcases le_or_gt 0 m with hm | hm
    · have a : m * 1 ≤ m * v := mul_le_mul_of_nonneg_left (by omega) hm
      have b : m * v ≤ m * 255 := mul_le_mul_of_nonneg_left (by omega) hm
      omega
    · have a : m * v ≤ m * 1 := mul_le_mul_of_nonpos_left (by omega) hm.le
      have b : m * 255 ≤ m * v := mul_le_mul_of_nonpos_left (by omega) hm.le
      omega
  · intro h
    exact ⟨h 1 (by omega) (by omega), h 255 (by omega) (by omega)⟩

/-- A well-formed configuration scales every sample to a frequency (R11, R188). -/
theorem lutHz_of_wellFormed (c : Config) (t : Tone) (k : Byte) (h : c.wellFormed = true) :
    ∃ hz : Hz, lutHz c t (sample k) = some hz ∧ (hz.toNat : Int) = lutValue c t (sample k) := by
  simp only [Config.wellFormed, Bool.and_eq_true] at h
  obtain ⟨⟨⟨-, h0⟩, h1⟩, -⟩ := h
  have hk := sample_range k
  have hr : 0 ≤ lutValue c t (sample k) ∧ lutValue c t (sample k) < 4294967296 := by
    cases t
    · exact (lutScaleOk_iff _ _ _).mp h0 _ hk.1 hk.2
    · exact (lutScaleOk_iff _ _ _).mp h1 _ hk.1 hk.2
  refine ⟨_, by simp only [lutHz]; rw [if_pos hr], ?_⟩
  simp only [BitVec.toNat_ofNat]
  omega

end Sys2Proof.Machine
end

