-- ==== Sys2Proof/Laws/Rtty.lean ====
section
/-! SUPPORT. The RTTY passes: what one pass of the polled loop can do, the measure every pass lowers by one,
and the loop's induction, packaged once. -/

namespace Sys2Proof.Machine

/-- One pass answers a next state from each state of the machine, or the fault of a character load. -/
theorem State.rttyPass_cases (s : State) :
    (s.rstate = .pause ∧ s.rttyPass = .next s.rttyPause)
      ∨ (s.rstate = .byte ∧ s.rttyPass = .next s.rttyByte)
      ∨ (s.rstate = .stopbit ∧ s.rttyPass = .next s.rttyStop)
      ∨ (s.rstate = .wait ∧ s.rttyPass = .next s)
      ∨ ((s.rstate = .startbit ∨ s.rstate = .reload) ∧ s.rttyPass = s.rttyCharOrDone) := by
  unfold State.rttyPass
  cases s.rstate <;>
    simp [execTickaRttyPause, execTickaRttyByte, execTickaRttyStopbit, execTickaRttyWait,
      execTickaRttyStartbit, execTickaRttyReload]

/-- The ticks of one character (R160). -/
def charTicks (c : Config) : Nat := 1 + bitsPerChar c + stopsPerChar c

/-- The passes a state of the RTTY machine still has to make before WAIT (R160, R275). -/
def State.passesLeft (s : State) : Nat :=
  let rest := (s.txlen.toNat - s.txidx.toNat) * charTicks s.cfg + 1
  match s.rstate with
  | .pause => max 1 s.rpause.toNat + rest
  | .startbit => rest
  | .byte => max 1 s.rbitcnt.toNat + stopsPerChar s.cfg + rest
  | .stopbit => max 1 s.rbitcnt.toNat + rest
  | .reload => rest
  | .wait => 0

theorem stopsPerChar_pos (c : Config) : 1 ≤ stopsPerChar c := by
  unfold stopsPerChar stopBitCount; cases c.rttyNstop <;> decide

theorem bitsPerChar_pos (c : Config) : 1 ≤ bitsPerChar c := by
  unfold bitsPerChar dataBitCount; cases c.rttyNbits <;> decide

/-- Every pass that is made lowers the measure by exactly one. -/
theorem State.passesLeft_pass {s t : State} (hw : s.rstate ≠ .wait) (h : s.rttyPass = .next t) :
    t.passesLeft + 1 = s.passesLeft := by
  have hn := stopsPerChar_pos s.cfg
  have hb := bitsPerChar_pos s.cfg
  rcases s.rttyPass_cases with ⟨hr, he⟩ | ⟨hr, he⟩ | ⟨hr, he⟩ | ⟨hr, -⟩ | ⟨hr, he⟩
  · rw [he] at h; cases h
    by_cases hp : s.rpause ≤ 1
    · have : s.rpause.toNat ≤ 1 := by simpa [BitVec.le_def] using hp
      simp only [State.passesLeft, State.rttyPause_rstate, hr, hp, if_true, State.rttyPause_txlen,
        State.rttyPause_txidx, State.rttyPause_cfg]
      omega
    · have : 1 < s.rpause.toNat := by simpa [BitVec.le_def] using hp
      have h1 : (s.rpause - 1).toNat = s.rpause.toNat - 1 := by
        rw [BitVec.toNat_sub_of_le (by rw [BitVec.le_def]; simpa using this.le)]; rfl
      simp only [State.passesLeft, State.rttyPause_rstate, hr, hp, if_false, State.rttyPause_rpause,
        State.rttyPause_txlen, State.rttyPause_txidx, State.rttyPause_cfg, h1]
      omega
  · rw [he] at h; cases h
    by_cases hp : s.rbitcnt ≤ 1
    · have : s.rbitcnt.toNat ≤ 1 := by simpa [BitVec.le_def] using hp
      have h2 : (stopBitCount s.cfg.rttyNstop).toNat = stopsPerChar s.cfg := rfl
      simp only [State.passesLeft, State.rttyByte_rstate, hr, hp, if_true, State.rttyByte_rbitcnt, h2,
        State.rttyByte_txlen, State.rttyByte_txidx, State.rttyByte_cfg]
      omega
    · have : 1 < s.rbitcnt.toNat := by simpa [BitVec.le_def] using hp
      have h1 : (s.rbitcnt - 1).toNat = s.rbitcnt.toNat - 1 := by
        rw [BitVec.toNat_sub_of_le (by rw [BitVec.le_def]; simpa using this.le)]; rfl
      simp only [State.passesLeft, State.rttyByte_rstate, hr, hp, if_false, State.rttyByte_rbitcnt,
        State.rttyByte_txlen, State.rttyByte_txidx, State.rttyByte_cfg, h1]
      omega
  · rw [he] at h; cases h
    by_cases hp : s.rbitcnt ≤ 1
    · have : s.rbitcnt.toNat ≤ 1 := by simpa [BitVec.le_def] using hp
      simp only [State.passesLeft, State.rttyStop_rstate, hr, hp, if_true, State.rttyStop_txlen,
        State.rttyStop_txidx, State.rttyStop_cfg]
      omega
    · have : 1 < s.rbitcnt.toNat := by simpa [BitVec.le_def] using hp
      have h1 : (s.rbitcnt - 1).toNat = s.rbitcnt.toNat - 1 := by
        rw [BitVec.toNat_sub_of_le (by rw [BitVec.le_def]; simpa using this.le)]; rfl
      simp only [State.passesLeft, State.rttyStop_rstate, hr, hp, if_false, State.rttyStop_rbitcnt,
        State.rttyStop_txlen, State.rttyStop_txidx, State.rttyStop_cfg, h1]
      omega
  · exact absurd hr hw
  · rw [he] at h
    rcases s.rttyCharOrDone_cases with ⟨hl, hc⟩ | ⟨b, hl, -, hc⟩ | ⟨f, -, -, hc⟩ <;>
      rw [hc] at h <;> cases h
    · have : s.txlen.toNat ≤ s.txidx.toNat := hl
      rcases hr with hr | hr <;> simp [State.passesLeft, hr] <;> omega
    · have hlt : s.txidx.toNat < s.txlen.toNat := hl
      have := s.txlen.isLt
      have hi : (s.txidx + 1).toNat = s.txidx.toNat + 1 := by simp [BitVec.toNat_add]; omega
      obtain ⟨d, hd⟩ : ∃ d, s.txlen.toNat - s.txidx.toNat = d + 1 :=
        ⟨s.txlen.toNat - s.txidx.toNat - 1, by omega⟩
      have hd' : s.txlen.toNat - (s.txidx.toNat + 1) = d := by omega
      have hk : (dataBitCount s.cfg.rttyNbits).toNat = bitsPerChar s.cfg := rfl
      have hm : (d + 1) * charTicks s.cfg = d * charTicks s.cfg + (1 + bitsPerChar s.cfg + stopsPerChar s.cfg) := by
        rw [Nat.succ_mul]; rfl
      rcases hr with hr | hr <;>
        simp only [State.passesLeft, State.charStarted, State.emit_txlen, State.emit_cfg, hr, hi, hd, hd',
          hk, hm] <;> omega

/-- The loop's induction: what every pass keeps holds of the state the loop answers, which is in WAIT. -/
theorem pollLoop_next {P : State → Prop} (hP : ∀ s t, P s → s.rstate ≠ .wait → s.rttyPass = .next t → P t) :
    ∀ (n : Nat) (s t : State), P s → pollLoop n s = .next t → P t ∧ t.rstate = .wait := by
  intro n
  induction n with
  | zero =>
    intro s t hs h
    simp only [pollLoop] at h
    split at h
    · next hw => cases h; exact ⟨hs, hw⟩
    · cases h
  | succ n ih =>
    intro s t hs h
    simp only [pollLoop] at h
    split at h
    · next hw => cases h; exact ⟨hs, hw⟩
    · next hw =>
      split at h
      · next u hu => exact ih u t (hP s u hs hw hu) h
      · cases h
      · cases h

/-- A pass refuses nothing. -/
theorem State.rttyPass_not_refused (s : State) (r : Refusal) : s.rttyPass ≠ .refused r := by
  intro h
  rcases s.rttyPass_cases with ⟨-, he⟩ | ⟨-, he⟩ | ⟨-, he⟩ | ⟨-, he⟩ | ⟨-, he⟩ <;> rw [he] at h
  any_goals cases h
  rcases s.rttyCharOrDone_cases with ⟨-, hc⟩ | ⟨b, -, -, hc⟩ | ⟨f, -, -, hc⟩ <;> rw [hc] at h <;> cases h

/-- With passes enough the loop answers a next state, or the fault of one of its passes. -/
theorem pollLoop_total {P : State → Prop} (hP : ∀ s t, P s → s.rstate ≠ .wait → s.rttyPass = .next t → P t) :
    ∀ (n : Nat) (s : State), P s → s.passesLeft ≤ n →
      (∃ t, pollLoop n s = .next t)
        ∨ ∃ u f, P u ∧ u.rstate ≠ .wait ∧ u.rttyPass = .fault f ∧ pollLoop n s = .fault f := by
  intro n
  induction n with
  | zero =>
    intro s hs hm
    refine .inl ⟨s, ?_⟩
    have hw : s.rstate = .wait := by
      have : s.passesLeft = 0 := by omega
      revert this
      unfold State.passesLeft
      cases s.rstate <;> simp
    simp [pollLoop, hw]
  | succ n ih =>
    intro s hs hm
    simp only [pollLoop]
    by_cases hw : s.rstate = .wait
    · exact .inl ⟨s, by rw [if_pos hw]⟩
    · rw [if_neg hw]
      cases hp : s.rttyPass with
      | next u =>
        have := State.passesLeft_pass hw hp
        simpa using ih u (hP s u hs hw hp) (by omega)
      | fault f => exact .inr ⟨s, f, hs, hw, hp, rfl⟩
      | refused r => exact absurd hp (s.rttyPass_not_refused r)

/-- The state the polled loop starts in. -/
def State.polledStart (s : State) (n : Index) : State :=
  { State.handOverTx { s.stopPrevious with mode := .rttyInterrupt, txlen := n } with
    rpause := s.cfg.rttyPauseTicks, rstate := startState s.cfg.rttyPauseTicks }

/-- The number of passes R275 gives is the measure of the start. -/
theorem State.passesLeft_polledStart (s : State) (n : Index) :
    (s.polledStart n).passesLeft = rttyPasses s.cfg n := by
  unfold State.polledStart State.passesLeft rttyPasses charTicks bitsPerChar stopsPerChar startState
  by_cases hp : s.cfg.rttyPauseTicks = 0
  · simp [hp]
  · have : s.cfg.rttyPauseTicks.toNat ≠ 0 := fun e => hp (BitVec.eq_of_toNat_eq e)
    simp only [hp, if_false]
    simp; omega

end Sys2Proof.Machine
end

