-- ==== Sys2Proof/Laws/Exec.lean ====
section
/-! SUPPORT. Everything an operation can do, said once: the next states of every operation, and its faults.
Statements about all operations go by cases on these and unfold no meaning. -/

namespace Sys2Proof.Machine

/-! ### The start of a transmission, field by field -/

@[simp] theorem State.polledStart_mode (s : State) (n : Index) : (s.polledStart n).mode = .rttyInterrupt := by simp [State.polledStart]
@[simp] theorem State.polledStart_taArmed (s : State) (n : Index) : (s.polledStart n).taArmed = false := by simp [State.polledStart]
@[simp] theorem State.polledStart_tbArmed (s : State) (n : Index) : (s.polledStart n).tbArmed = false := by simp [State.polledStart]
@[simp] theorem State.polledStart_taCmp (s : State) (n : Index) : (s.polledStart n).taCmp = s.taCmp := by simp [State.polledStart]
@[simp] theorem State.polledStart_tbCmp (s : State) (n : Index) : (s.polledStart n).tbCmp = s.tbCmp := by simp [State.polledStart]
@[simp] theorem State.polledStart_errCnr (s : State) (n : Index) : (s.polledStart n).errCnr = s.errCnr := by simp [State.polledStart]
@[simp] theorem State.polledStart_errBovr (s : State) (n : Index) : (s.polledStart n).errBovr = s.errBovr := by simp [State.polledStart]
@[simp] theorem State.polledStart_errMode (s : State) (n : Index) : (s.polledStart n).errMode = (s.errMode || s.anyArmed) := by simp [State.polledStart]
@[simp] theorem State.polledStart_txReady (s : State) (n : Index) : (s.polledStart n).txReady = true := by simp [State.polledStart]
@[simp] theorem State.polledStart_txConsumed (s : State) (n : Index) : (s.polledStart n).txConsumed = false := by simp [State.polledStart]
@[simp] theorem State.polledStart_apReady (s : State) (n : Index) : (s.polledStart n).apReady = false := by simp [State.polledStart]
@[simp] theorem State.polledStart_apDone (s : State) (n : Index) : (s.polledStart n).apDone = (s.apReady || s.apDone) := by simp [State.polledStart]
@[simp] theorem State.polledStart_rstate (s : State) (n : Index) : (s.polledStart n).rstate = startState s.cfg.rttyPauseTicks := by simp [State.polledStart]
@[simp] theorem State.polledStart_rbitcnt (s : State) (n : Index) : (s.polledStart n).rbitcnt = 0 := by simp [State.polledStart]
@[simp] theorem State.polledStart_rcur (s : State) (n : Index) : (s.polledStart n).rcur = 0 := by simp [State.polledStart]
@[simp] theorem State.polledStart_rpause (s : State) (n : Index) : (s.polledStart n).rpause = s.cfg.rttyPauseTicks := by simp [State.polledStart]
@[simp] theorem State.polledStart_txidx (s : State) (n : Index) : (s.polledStart n).txidx = 0 := by simp [State.polledStart]
@[simp] theorem State.polledStart_txlen (s : State) (n : Index) : (s.polledStart n).txlen = n := by simp [State.polledStart]
@[simp] theorem State.polledStart_apFs (s : State) (n : Index) : (s.polledStart n).apFs = s.apFs := by simp [State.polledStart]
@[simp] theorem State.polledStart_apFe (s : State) (n : Index) : (s.polledStart n).apFe = s.apFe := by simp [State.polledStart]
@[simp] theorem State.polledStart_aidx (s : State) (n : Index) : (s.polledStart n).aidx = 0 := by simp [State.polledStart]
@[simp] theorem State.polledStart_abit (s : State) (n : Index) : (s.polledStart n).abit = 0 := by simp [State.polledStart]
@[simp] theorem State.polledStart_atone (s : State) (n : Index) : (s.polledStart n).atone = .t1200 := by simp [State.polledStart]
@[simp] theorem State.polledStart_lcur (s : State) (n : Index) : (s.polledStart n).lcur = 0 := by simp [State.polledStart]
@[simp] theorem State.polledStart_lstep (s : State) (n : Index) : (s.polledStart n).lstep = 0 := by simp [State.polledStart]
@[simp] theorem State.polledStart_txbuf (s : State) (n : Index) : (s.polledStart n).txbuf = s.txbuf := by simp [State.polledStart]
@[simp] theorem State.polledStart_apbuf (s : State) (n : Index) : (s.polledStart n).apbuf = s.apbuf := by simp [State.polledStart]
@[simp] theorem State.polledStart_radioTrace (s : State) (n : Index) : (s.polledStart n).radioTrace = s.radioTrace := by simp [State.polledStart]
@[simp] theorem State.polledStart_rdregValues (s : State) (n : Index) : (s.polledStart n).rdregValues = s.rdregValues := by simp [State.polledStart]
@[simp] theorem State.polledStart_cfg (s : State) (n : Index) : (s.polledStart n).cfg = s.cfg := by simp [State.polledStart]
@[simp] theorem State.polledStart_schedule (s : State) (n : Index) : (s.polledStart n).schedule = s.schedule := by simp [State.polledStart]
@[simp] theorem State.polledStart_scheduleKind (s : State) (n : Index) : (s.polledStart n).scheduleKind = s.scheduleKind := by simp [State.polledStart]
@[simp] theorem State.polledStart_draws (s : State) (n : Index) : (s.polledStart n).draws = s.draws := by simp [State.polledStart]
@[simp] theorem State.polledStart_drawCount (s : State) (n : Index) : (s.polledStart n).drawCount = s.drawCount := by simp [State.polledStart]
@[simp] theorem State.polledStart_choiceCount (s : State) (n : Index) : (s.polledStart n).choiceCount = s.choiceCount := by simp [State.polledStart]

/-! ### A started character, field by field -/

@[simp] theorem State.charStarted_mode (s : State) (b : Byte) : (s.charStarted b).mode = s.mode := rfl
@[simp] theorem State.charStarted_taArmed (s : State) (b : Byte) : (s.charStarted b).taArmed = s.taArmed := rfl
@[simp] theorem State.charStarted_tbArmed (s : State) (b : Byte) : (s.charStarted b).tbArmed = s.tbArmed := rfl
@[simp] theorem State.charStarted_taCmp (s : State) (b : Byte) : (s.charStarted b).taCmp = s.taCmp := rfl
@[simp] theorem State.charStarted_tbCmp (s : State) (b : Byte) : (s.charStarted b).tbCmp = s.tbCmp := rfl
@[simp] theorem State.charStarted_errCnr (s : State) (b : Byte) : (s.charStarted b).errCnr = (s.emit s.cfg.fRttySpace).errCnr := rfl
@[simp] theorem State.charStarted_errBovr (s : State) (b : Byte) : (s.charStarted b).errBovr = s.errBovr := rfl
@[simp] theorem State.charStarted_errMode (s : State) (b : Byte) : (s.charStarted b).errMode = s.errMode := rfl
@[simp] theorem State.charStarted_txReady (s : State) (b : Byte) : (s.charStarted b).txReady = s.txReady := rfl
@[simp] theorem State.charStarted_txConsumed (s : State) (b : Byte) : (s.charStarted b).txConsumed = s.txConsumed := rfl
@[simp] theorem State.charStarted_apReady (s : State) (b : Byte) : (s.charStarted b).apReady = s.apReady := rfl
@[simp] theorem State.charStarted_apDone (s : State) (b : Byte) : (s.charStarted b).apDone = s.apDone := rfl
@[simp] theorem State.charStarted_rstate (s : State) (b : Byte) : (s.charStarted b).rstate = .byte := rfl
@[simp] theorem State.charStarted_rbitcnt (s : State) (b : Byte) : (s.charStarted b).rbitcnt = dataBitCount s.cfg.rttyNbits := rfl
@[simp] theorem State.charStarted_rcur (s : State) (b : Byte) : (s.charStarted b).rcur = b := rfl
@[simp] theorem State.charStarted_rpause (s : State) (b : Byte) : (s.charStarted b).rpause = s.rpause := rfl
@[simp] theorem State.charStarted_txidx (s : State) (b : Byte) : (s.charStarted b).txidx = s.txidx + 1 := rfl
@[simp] theorem State.charStarted_txlen (s : State) (b : Byte) : (s.charStarted b).txlen = s.txlen := rfl
@[simp] theorem State.charStarted_apFs (s : State) (b : Byte) : (s.charStarted b).apFs = s.apFs := rfl
@[simp] theorem State.charStarted_apFe (s : State) (b : Byte) : (s.charStarted b).apFe = s.apFe := rfl
@[simp] theorem State.charStarted_aidx (s : State) (b : Byte) : (s.charStarted b).aidx = s.aidx := rfl
@[simp] theorem State.charStarted_abit (s : State) (b : Byte) : (s.charStarted b).abit = s.abit := rfl
@[simp] theorem State.charStarted_atone (s : State) (b : Byte) : (s.charStarted b).atone = s.atone := rfl
@[simp] theorem State.charStarted_lcur (s : State) (b : Byte) : (s.charStarted b).lcur = s.lcur := rfl
@[simp] theorem State.charStarted_lstep (s : State) (b : Byte) : (s.charStarted b).lstep = s.lstep := rfl
@[simp] theorem State.charStarted_txbuf (s : State) (b : Byte) : (s.charStarted b).txbuf = s.txbuf := rfl
@[simp] theorem State.charStarted_apbuf (s : State) (b : Byte) : (s.charStarted b).apbuf = s.apbuf := rfl
@[simp] theorem State.charStarted_radioTrace (s : State) (b : Byte) : (s.charStarted b).radioTrace = (s.emit s.cfg.fRttySpace).radioTrace := rfl
@[simp] theorem State.charStarted_rdregValues (s : State) (b : Byte) : (s.charStarted b).rdregValues = s.rdregValues := rfl
@[simp] theorem State.charStarted_cfg (s : State) (b : Byte) : (s.charStarted b).cfg = s.cfg := rfl
@[simp] theorem State.charStarted_schedule (s : State) (b : Byte) : (s.charStarted b).schedule = s.schedule := rfl
@[simp] theorem State.charStarted_scheduleKind (s : State) (b : Byte) : (s.charStarted b).scheduleKind = s.scheduleKind := rfl
@[simp] theorem State.charStarted_draws (s : State) (b : Byte) : (s.charStarted b).draws = (s.emit s.cfg.fRttySpace).draws := rfl
@[simp] theorem State.charStarted_drawCount (s : State) (b : Byte) : (s.charStarted b).drawCount = (s.emit s.cfg.fRttySpace).drawCount := rfl
@[simp] theorem State.charStarted_choiceCount (s : State) (b : Byte) : (s.charStarted b).choiceCount = s.choiceCount := rfl

/-! ### The next states -/

/-- The next states of an operation from `s`, with what each of them needs. -/
inductive Ran (s : State) : Instr → State → Prop where
  | nop : Ran s .nop s
  | stopTimers : Ran s .stopTimers s.stopTimers
  | setMode (m : Mode) (h : s.anyArmed = false) : Ran s (.setMode m) { s with mode := m }
  | setModeBusy (m : Mode) (h : s.anyArmed = true) : Ran s (.setMode m) (s.raise .modeConflict)
  | abort : Ran s .abort { s.stopTimers.releaseAll.resetEngines with mode := .rttyInterrupt }
  | startRttyTooLong (n : Index) (h : s.cfg.txCap < n.toNat) :
      Ran s (.startRtty n) (s.stopPrevious.raise .bufferOverrun)
  | startRttyEmpty (n : Index) (h0 : n = 0) (h : n.toNat ≤ s.cfg.txCap) :
      Ran s (.startRtty n) { s.stopPrevious with mode := .rttyInterrupt, txlen := n }
  | polledTooLong (n : Index) (h : s.cfg.txCap < n.toNat) :
      Ran s (.txRttyPolled n) (s.stopPrevious.raise .bufferOverrun)
  | polledEmpty (n : Index) (h0 : n = 0) (h : n.toNat ≤ s.cfg.txCap) :
      Ran s (.txRttyPolled n) { s.stopPrevious with mode := .rttyInterrupt, txlen := n }
  | startRtty (n : Index) (h0 : n ≠ 0) (h : n.toNat ≤ s.cfg.txCap) :
      Ran s (.startRtty n) ((s.polledStart n).armA (s.polledStart n).cfg.consts.cmpRtty)
  | polled (n : Index) (t : State) (h0 : n ≠ 0) (h : n.toNat ≤ s.cfg.txCap)
      (hp : pollLoop (rttyPasses s.cfg n) (s.polledStart n) = .next t) : Ran s (.txRttyPolled n) t
  | startGfskTooLong (fs fe : Index) (h : s.cfg.apCap < fe.toNat) :
      Ran s (.startAprsGfsk fs fe) (s.stopPrevious.raise .bufferOverrun)
  | startGfskEmpty (fs fe : Index) (h0 : fe ≤ fs) (h : fe.toNat ≤ s.cfg.apCap) :
      Ran s (.startAprsGfsk fs fe)
        { s.stopPrevious with mode := .gfskSync, apFs := fs, apFe := fe, aidx := fs }
  | startLookupTooLong (fs fe : Index) (h : s.cfg.apCap < fe.toNat) :
      Ran s (.startAprsLookup fs fe) (s.stopPrevious.raise .bufferOverrun)
  | startLookupEmpty (fs fe : Index) (h0 : fe ≤ fs) (h : fe.toNat ≤ s.cfg.apCap) :
      Ran s (.startAprsLookup fs fe)
        { s.stopPrevious with mode := .lookup, apFs := fs, apFe := fe, aidx := fs }
  | startGfsk (fs fe : Index) (h0 : fs < fe) (h : fe.toNat ≤ s.cfg.apCap) :
      Ran s (.startAprsGfsk fs fe)
        (State.armA (State.handOverAp
          { s.stopPrevious with mode := .gfskSync, apFs := fs, apFe := fe, aidx := fs })
          s.stopPrevious.cfg.consts.cmpGfsk)
  | startLookup (fs fe : Index) (h0 : fs < fe) (h : fe.toNat ≤ s.cfg.apCap) :
      Ran s (.startAprsLookup fs fe)
        (State.armB (State.armA { State.handOverAp
          { s.stopPrevious with mode := .lookup, apFs := fs, apFe := fe, aidx := fs } with
            lcur := 0, lstep := toneStep s.stopPrevious.cfg .t1200 }
          s.stopPrevious.cfg.consts.cmpLutBit)
          s.stopPrevious.cfg.consts.cmpLutSample)
  | wrTxbufOver (idx : Index) (v : Byte) (h : s.cfg.txCap ≤ idx.toNat) :
      Ran s (.wrTxbuf idx v) (s.raise .bufferOverrun)
  | wrTxbuf (idx : Index) (v : Byte) (h : idx.toNat < s.cfg.txCap) (hr : s.txReady = false) :
      Ran s (.wrTxbuf idx v) { s with txbuf := s.txbuf.write idx.toNat v }
  | wrApbufOver (idx : Index) (v : Byte) (h : s.cfg.apCap ≤ idx.toNat) :
      Ran s (.wrApbuf idx v) (s.raise .bufferOverrun)
  | wrApbuf (idx : Index) (v : Byte) (h : idx.toNat < s.cfg.apCap) (hr : s.apReady = false) :
      Ran s (.wrApbuf idx v) { s with apbuf := s.apbuf.write idx.toNat v }
  | rdreg (n : BitVec 8) : Ran s (.rdreg n) { s with rdregValues := s.rdregValues ++ [s.reg n] }
  | clrErr (k : BitVec 3) : Ran s (.clrErr k) (s.clearErrors k)
  | pause : Ran s .tickaRttyPause s.rttyPause
  | startbitChar (b : Byte) (h : s.txidx < s.txlen) (hl : s.loadChar = .ok b) :
      Ran s .tickaRttyStartbit (s.charStarted b)
  | startbitDone (h : s.txlen ≤ s.txidx) : Ran s .tickaRttyStartbit s.rttyComplete
  | reloadChar (b : Byte) (h : s.txidx < s.txlen) (hl : s.loadChar = .ok b) :
      Ran s .tickaRttyReload (s.charStarted b)
  | reloadDone (h : s.txlen ≤ s.txidx) : Ran s .tickaRttyReload s.rttyComplete
  | byte : Ran s .tickaRttyByte s.rttyByte
  | stopbit : Ran s .tickaRttyStopbit s.rttyStop
  | wait : Ran s .tickaRttyWait s
  | unusedA : Ran s .tickaUnused s
  | rttyB : Ran s .tickbRtty s
  | gfskB : Ran s .tickbGfsk s
  | unusedB : Ran s .tickbUnused s
  | gfskDone (h : s.apFe ≤ s.aidx) : Ran s .tickaGfsk s.aprsComplete
  | lookupDone (h : s.apFe ≤ s.aidx) : Ran s .tickaLookup s.aprsComplete
  | gfskBit (b : Bool) (h : s.aidx < s.apFe) (hb : s.nextBit = .ok (b, s.advanceBit)) :
      Ran s .tickaGfsk
        ((s.advanceBit.setTone (nrziTone s.atone b)).emit (toneHz s.cfg (nrziTone s.atone b)))
  | lookupKeep (h : s.aidx < s.apFe) (hb : s.nextBit = .ok (true, s.advanceBit)) :
      Ran s .tickaLookup s.advanceBit
  | lookupChange (h : s.aidx < s.apFe) (hb : s.nextBit = .ok (false, s.advanceBit)) :
      Ran s .tickaLookup s.advanceBit.toneTransition
  | sample (hz : Hz) (h : lutHz s.cfg s.atone (sample s.lcur) = some hz) :
      Ran s .tickbLookup { s.emit hz with lcur := advanceCursor s.lcur s.lstep }

/-- A successful bit fetch leaves the advanced cursor. -/
theorem State.nextBit_ok {s t : State} {b : Bool} (h : s.nextBit = .ok (b, t)) : t = s.advanceBit := by
  rcases s.nextBit_cases with ⟨v, -, -, hb⟩ | ⟨-, hb⟩ | ⟨-, hb⟩ <;> rw [hb] at h <;> cases h
  rfl

/-- TX_RTTY_POLLED of an accepted length is the polled loop from its start. -/
theorem exec_txRttyPolled {n : Index} {s : State} (h0 : n ≠ 0) (hn : n.toNat ≤ s.cfg.txCap) :
    exec (.txRttyPolled n) s = pollLoop (rttyPasses s.cfg n) (s.polledStart n) := by
  rcases s.rttySetup_cases n with ⟨h, -⟩ | ⟨-, h, -⟩ | ⟨-, -, h⟩
  · omega
  · exact absurd h h0
  · simp only [exec, execTxRttyPolled, h]; rfl

/-- Every next state of every operation is one of `Ran`. -/
theorem ran_of_exec {i : Instr} {s t : State} (h : exec i s = .next t) : Ran s i t := by
  cases i with
  | nop => cases h; exact .nop
  | stopTimers => cases h; exact .stopTimers
  | setMode m =>
    simp only [exec, execSetMode] at h
    split at h
    · next ha => cases h; exact .setModeBusy m ha
    · next ha => cases h; exact .setMode m (by simpa using ha)
  | abort => cases h; exact .abort
  | startRtty n =>
    rcases s.rttySetup_cases n with ⟨h1, he⟩ | ⟨h1, h0, he⟩ | ⟨h1, h0, he⟩ <;>
      simp only [exec, execStartRtty, he] at h <;> cases h
    · exact .startRttyTooLong n h1
    · exact .startRttyEmpty n h0 h1
    · exact .startRtty n h0 h1
  | txRttyPolled n =>
    rcases s.rttySetup_cases n with ⟨h1, he⟩ | ⟨h1, h0, he⟩ | ⟨h1, h0, -⟩
    · simp only [exec, execTxRttyPolled, he] at h; cases h
      exact .polledTooLong n h1
    · simp only [exec, execTxRttyPolled, he] at h; cases h
      exact .polledEmpty n h0 h1
    · exact .polled n t h0 h1 (exec_txRttyPolled h0 h1 ▸ h)
  | startAprsGfsk fs fe =>
    rcases s.aprsSetup_cases fs fe .gfskSync with ⟨h1, he⟩ | ⟨h1, h0, he⟩ | ⟨h1, h0, he⟩ <;>
      simp only [exec, execStartAprsGfsk, he] at h <;> cases h
    · exact .startGfskTooLong fs fe h1
    · exact .startGfskEmpty fs fe h0 h1
    · exact .startGfsk fs fe h0 h1
  | startAprsLookup fs fe =>
    rcases s.aprsSetup_cases fs fe .lookup with ⟨h1, he⟩ | ⟨h1, h0, he⟩ | ⟨h1, h0, he⟩ <;>
      simp only [exec, execStartAprsLookup, he] at h <;> cases h
    · exact .startLookupTooLong fs fe h1
    · exact .startLookupEmpty fs fe h0 h1
    · exact .startLookup fs fe h0 h1
  | wrTxbuf idx v =>
    simp only [exec, execWrTxbuf] at h
    split at h
    · next hc => cases h; exact .wrTxbufOver idx v hc
    · next hc =>
      split at h
      · cases h
      · next hr => cases h; exact .wrTxbuf idx v (Nat.lt_of_not_le hc) (by simpa using hr)
  | wrApbuf idx v =>
    simp only [exec, execWrApbuf] at h
    split at h
    · next hc => cases h; exact .wrApbufOver idx v hc
    · next hc =>
      split at h
      · cases h
      · next hr => cases h; exact .wrApbuf idx v (Nat.lt_of_not_le hc) (by simpa using hr)
  | rdreg n => cases h; exact .rdreg n
  | clrErr k => cases h; exact .clrErr k
  | tickaRttyPause => cases h; exact .pause
  | tickaRttyStartbit =>
    change s.rttyCharOrDone = _ at h
    rcases s.rttyCharOrDone_cases with ⟨hl, hc⟩ | ⟨b, hl, hb, hc⟩ | ⟨f, -, -, hc⟩ <;> rw [hc] at h <;> cases h
    · exact .startbitDone hl
    · exact .startbitChar b hl hb
  | tickaRttyByte => cases h; exact .byte
  | tickaRttyStopbit => cases h; exact .stopbit
  | tickaRttyReload =>
    change s.rttyCharOrDone = _ at h
    rcases s.rttyCharOrDone_cases with ⟨hl, hc⟩ | ⟨b, hl, hb, hc⟩ | ⟨f, -, -, hc⟩ <;> rw [hc] at h <;> cases h
    · exact .reloadDone hl
    · exact .reloadChar b hl hb
  | tickaRttyWait => cases h; exact .wait
  | tickaGfsk =>
    simp only [exec, execTickaGfsk] at h
    split at h
    · next hc => cases h; exact .gfskDone hc
    · next hc =>
      split at h
      · next b u hb => cases h; obtain rfl := s.nextBit_ok hb; exact .gfskBit b (BitVec.not_le.mp hc) hb
      · cases h
  | tickaUnused => cases h; exact .unusedA
  | tickaLookup =>
    simp only [exec, execTickaLookup] at h
    split at h
    · next hc => cases h; exact .lookupDone hc
    · next hc =>
      split at h
      · next b u hb =>
        cases h
        obtain rfl := s.nextBit_ok hb
        cases b
        · exact .lookupChange (BitVec.not_le.mp hc) hb
        · exact .lookupKeep (BitVec.not_le.mp hc) hb
      · cases h
  | tickbRtty => cases h; exact .rttyB
  | tickbGfsk => cases h; exact .gfskB
  | tickbUnused => cases h; exact .unusedB
  | tickbLookup =>
    simp only [exec, execTickbLookup] at h
    split at h
    · next hz hh => cases h; exact .sample hz hh
    · cases h

/-- Induction over the polled loop: what holds at its start and is kept by each kind of pass holds of the
state it answers, which is in WAIT. -/
theorem polled_induction {n : Index} {s t : State} (P : State → Prop)
    (hp : pollLoop (rttyPasses s.cfg n) (s.polledStart n) = .next t)
    (start : P (s.polledStart n))
    (pause : ∀ u, P u → u.rstate = .pause → P u.rttyPause)
    (byte : ∀ u, P u → u.rstate = .byte → P u.rttyByte)
    (stop : ∀ u, P u → u.rstate = .stopbit → P u.rttyStop)
    (char : ∀ u b, P u → u.rstate = .startbit ∨ u.rstate = .reload → u.txidx < u.txlen →
      u.loadChar = .ok b → P (u.charStarted b))
    (complete : ∀ u, P u → u.rstate = .startbit ∨ u.rstate = .reload → u.txlen ≤ u.txidx →
      P u.rttyComplete) :
    P t ∧ t.rstate = .wait := by
  refine pollLoop_next (P := P) ?_ _ _ _ start hp
  intro u v hu hw h
  rcases u.rttyPass_cases with ⟨hr, he⟩ | ⟨hr, he⟩ | ⟨hr, he⟩ | ⟨hr, -⟩ | ⟨hr, he⟩
  · rw [he] at h; cases h; exact pause u hu hr
  · rw [he] at h; cases h; exact byte u hu hr
  · rw [he] at h; cases h; exact stop u hu hr
  · exact absurd hr hw
  · rw [he] at h
    rcases u.rttyCharOrDone_cases with ⟨hl, hc⟩ | ⟨b, hl, hb, hc⟩ | ⟨f, -, -, hc⟩ <;> rw [hc] at h <;> cases h
    · exact complete u hu hr hl
    · exact char u b hu hr hl hb

/-- No operation refuses but a lookup sample of a configuration that is not well formed. -/
theorem exec_refused {i : Instr} {s : State} {r : Refusal} (h : exec i s = .refused r) :
    i = .tickbLookup ∧ r = .illFormedConfig := by
  cases i
  case txRttyPolled n =>
    rcases s.rttySetup_cases n with ⟨-, he⟩ | ⟨-, -, he⟩ | ⟨h1, h0, -⟩
    · simp [exec, execTxRttyPolled, he] at h
    · simp [exec, execTxRttyPolled, he] at h
    · rw [exec_txRttyPolled h0 h1] at h
      rcases pollLoop_total (P := fun _ => True) (fun _ _ _ _ _ => trivial) (rttyPasses s.cfg n)
        (s.polledStart n) trivial (by rw [State.passesLeft_polledStart]) with ⟨t, ht⟩ | ⟨u, f, -, -, -, hf⟩
      · rw [ht] at h; cases h
      · rw [hf] at h; cases h
  case startRtty n =>
    rcases s.rttySetup_cases n with ⟨-, he⟩ | ⟨-, -, he⟩ | ⟨-, -, he⟩ <;> simp [exec, execStartRtty, he] at h
  case startAprsGfsk fs fe =>
    rcases s.aprsSetup_cases fs fe .gfskSync with ⟨-, he⟩ | ⟨-, -, he⟩ | ⟨-, -, he⟩ <;>
      simp [exec, execStartAprsGfsk, he] at h
  case startAprsLookup fs fe =>
    rcases s.aprsSetup_cases fs fe .lookup with ⟨-, he⟩ | ⟨-, -, he⟩ | ⟨-, -, he⟩ <;>
      simp [exec, execStartAprsLookup, he] at h
  case wrTxbuf idx v =>
    simp only [exec, execWrTxbuf] at h
    split at h
    · cases h
    · split at h <;> cases h
  case wrApbuf idx v =>
    simp only [exec, execWrApbuf] at h
    split at h
    · cases h
    · split at h <;> cases h
  case tickbLookup =>
    simp only [exec, execTickbLookup] at h
    split at h <;> cases h
    exact ⟨rfl, rfl⟩
  case tickaRttyStartbit =>
    change s.rttyCharOrDone = _ at h
    rcases s.rttyCharOrDone_cases with ⟨-, hc⟩ | ⟨b, -, -, hc⟩ | ⟨f, -, -, hc⟩ <;> rw [hc] at h <;> cases h
  case tickaRttyReload =>
    change s.rttyCharOrDone = _ at h
    rcases s.rttyCharOrDone_cases with ⟨-, hc⟩ | ⟨b, -, -, hc⟩ | ⟨f, -, -, hc⟩ <;> rw [hc] at h <;> cases h
  case tickaGfsk =>
    simp only [exec, execTickaGfsk] at h
    split at h
    · cases h
    · split at h <;> cases h
  case tickaLookup =>
    simp only [exec, execTickaLookup] at h
    split at h
    · cases h
    · split at h <;> cases h
  all_goals cases h

end Sys2Proof.Machine
end

