-- ==== Sys2Proof/Laws/PerInstr.lean ====
section
/-! SUPPORT. Statements made once per instruction: the encoding of every operation, at every value of its
operands, lies in the row of spec/opcode_table.json that carries its mnemonic. -/

namespace Sys2Proof.Laws.EncodesToRow

open Sys2Proof

/-- An encoding lies in a row of the table with the given format, match and mask. -/
def InCommandRow (pattern mask : Word) : Encoding → Prop
  | .command w => w &&& mask = pattern
  | .key _ => False

/-- An encoding is a key of the row with the given match and mask. -/
def InKeyRow (pattern mask : BitVec 6) : Encoding → Prop
  | .command _ => False
  | .key k => k &&& mask = pattern

/-- The row of each operation, its match and mask written out from spec/opcode_table.json. -/
def Statement (i : Instr) : Prop :=
  match i with
  | .nop => InCommandRow 0x00000000 0xFFFFFFFF (encode i)
  | .stopTimers => InCommandRow 0x01000000 0xFFFFFFFF (encode i)
  | .setMode _ => InCommandRow 0x02000000 0xFFFFFFFC (encode i)
  | .abort => InCommandRow 0x03000000 0xFFFFFFFF (encode i)
  | .startRtty _ => InCommandRow 0x10000000 0xFFFFF000 (encode i)
  | .txRttyPolled _ => InCommandRow 0x11000000 0xFFFFF000 (encode i)
  | .startAprsGfsk _ _ => InCommandRow 0x20000000 0xFF000000 (encode i)
  | .startAprsLookup _ _ => InCommandRow 0x21000000 0xFF000000 (encode i)
  | .wrTxbuf _ _ => InCommandRow 0x30000000 0xFF000F00 (encode i)
  | .wrApbuf _ _ => InCommandRow 0x31000000 0xFF000F00 (encode i)
  | .rdreg _ => InCommandRow 0x40000000 0xFFFFFF00 (encode i)
  | .clrErr _ => InCommandRow 0x41000000 0xFFFFFFF8 (encode i)
  | .tickaRttyPause => InKeyRow 0x00 0x3F (encode i)
  | .tickaRttyStartbit => InKeyRow 0x01 0x3F (encode i)
  | .tickaRttyByte => InKeyRow 0x02 0x3F (encode i)
  | .tickaRttyStopbit => InKeyRow 0x03 0x3F (encode i)
  | .tickaRttyReload => InKeyRow 0x04 0x3F (encode i)
  | .tickaRttyWait => InKeyRow 0x05 0x3F (encode i)
  | .tickaGfsk => InKeyRow 0x08 0x38 (encode i)
  | .tickaUnused => InKeyRow 0x10 0x38 (encode i)
  | .tickaLookup => InKeyRow 0x18 0x38 (encode i)
  | .tickbRtty => InKeyRow 0x20 0x38 (encode i)
  | .tickbGfsk => InKeyRow 0x28 0x38 (encode i)
  | .tickbUnused => InKeyRow 0x30 0x38 (encode i)
  | .tickbLookup => InKeyRow 0x38 0x38 (encode i)

/-- A command word of a row whose mask covers the opcode: the masked operand fields are zero. -/
theorem inRow (op : BitVec 8) (a b ma mb : Index) (ha : a &&& ma = 0) (hb : b &&& mb = 0) :
    commandWord op a b &&& commandWord 0xFF ma mb = commandWord op 0 0 := by
  have hop : op &&& 0xFF = op := BitVec.and_allOnes
  rw [commandWord_and, hop, ha, hb]

theorem nop : Statement .nop := rfl

theorem stopTimers : Statement .stopTimers := rfl

theorem setMode (mode : Mode) : Statement (.setMode mode) :=
  inRow 0x02 0 _ 0xFFF 0xFFC rfl (setWidth_and_eq_zero mode.toBits 0xFFC (by decide))

theorem abort : Statement .abort := rfl

theorem startRtty (length : Index) : Statement (.startRtty length) :=
  inRow 0x10 0 length 0xFFF 0 rfl BitVec.and_zero

theorem txRttyPolled (length : Index) : Statement (.txRttyPolled length) :=
  inRow 0x11 0 length 0xFFF 0 rfl BitVec.and_zero

theorem startAprsGfsk (flagStart flagEnd : Index) : Statement (.startAprsGfsk flagStart flagEnd) :=
  inRow 0x20 flagStart flagEnd 0 0 BitVec.and_zero BitVec.and_zero

theorem startAprsLookup (flagStart flagEnd : Index) : Statement (.startAprsLookup flagStart flagEnd) :=
  inRow 0x21 flagStart flagEnd 0 0 BitVec.and_zero BitVec.and_zero

theorem wrTxbuf (idx : Index) (byte : Byte) : Statement (.wrTxbuf idx byte) :=
  inRow 0x30 idx _ 0 0xF00 BitVec.and_zero (setWidth_and_eq_zero byte 0xF00 (by decide))

theorem wrApbuf (idx : Index) (byte : Byte) : Statement (.wrApbuf idx byte) :=
  inRow 0x31 idx _ 0 0xF00 BitVec.and_zero (setWidth_and_eq_zero byte 0xF00 (by decide))

theorem rdreg (n : BitVec 8) : Statement (.rdreg n) :=
  inRow 0x40 0 _ 0xFFF 0xF00 rfl (setWidth_and_eq_zero n 0xF00 (by decide))

theorem clrErr (mask : BitVec 3) : Statement (.clrErr mask) :=
  inRow 0x41 0 _ 0xFFF 0xFF8 rfl (setWidth_and_eq_zero mask 0xFF8 (by decide))

theorem tickaRttyPause : Statement .tickaRttyPause := rfl

theorem tickaRttyStartbit : Statement .tickaRttyStartbit := rfl

theorem tickaRttyByte : Statement .tickaRttyByte := rfl

theorem tickaRttyStopbit : Statement .tickaRttyStopbit := rfl

theorem tickaRttyReload : Statement .tickaRttyReload := rfl

theorem tickaRttyWait : Statement .tickaRttyWait := rfl

theorem tickaGfsk : Statement .tickaGfsk := rfl

theorem tickaUnused : Statement .tickaUnused := rfl

theorem tickaLookup : Statement .tickaLookup := rfl

theorem tickbRtty : Statement .tickbRtty := rfl

theorem tickbGfsk : Statement .tickbGfsk := rfl

theorem tickbUnused : Statement .tickbUnused := rfl

theorem tickbLookup : Statement .tickbLookup := rfl

end Sys2Proof.Laws.EncodesToRow
end

