-- ==== Sys2Proof/Laws/Step.lean ====
section
/-! SUPPORT. What one step can do: stay idle, run one operation on the state with its event taken, or refuse. -/

namespace Sys2Proof.Machine

/-- A next state comes from an idle block, or from running the operation of the next event. -/
theorem step_next_cases {s t : State} (h : step s = .next t) :
    (t = s ∧ s.schedule = [] ∧ s.anyArmed = false ∧ s.scheduleKind = .finite)
      ∨ ∃ e i, s.cfg.wellFormed = true ∧ s.nextEvent = some e ∧ s.operationOf e = .ok i
        ∧ exec i s.consumeEvent = .next t := by
  unfold step State.fetch at h
  by_cases hc : s.cfg.wellFormed = true
  · rw [if_pos hc] at h
    cases he : s.nextEvent with
    | none =>
      rw [he] at h; cases h
      refine .inl ⟨rfl, ?_⟩
      unfold State.nextEvent State.silentEvent at he
      cases hs : s.schedule with
      | nil =>
        cases hk : s.scheduleKind with
        | finite =>
          rw [hs, hk] at he; revert he; unfold State.anyArmed
          cases s.taArmed <;> cases s.tbArmed <;> simp
        | infinite => rw [hs, hk] at he; simp at he
      | cons e r => rw [hs] at he; simp at he
    | some e =>
      rw [he] at h
      cases ho : s.operationOf e with
      | ok i => simp only [ho] at h; exact .inr ⟨e, i, hc, rfl, ho, h⟩
      | error r => simp only [ho] at h; cases h
  · rw [if_neg hc] at h; cases h

/-- A fault comes from running the operation of the next event. -/
theorem step_fault_cases {s : State} {f : Fault} (h : step s = .fault f) :
    ∃ e i, s.cfg.wellFormed = true ∧ s.nextEvent = some e ∧ s.operationOf e = .ok i
      ∧ exec i s.consumeEvent = .fault f := by
  unfold step State.fetch at h
  by_cases hc : s.cfg.wellFormed = true
  · rw [if_pos hc] at h
    cases he : s.nextEvent with
    | none => rw [he] at h; cases h
    | some e =>
      rw [he] at h
      cases ho : s.operationOf e with
      | ok i => simp only [ho] at h; exact ⟨e, i, hc, rfl, ho, h⟩
      | error r => simp only [ho] at h; cases h
  · rw [if_neg hc] at h; cases h

/-- The step whose next event and operation are known. -/
theorem step_of_event {s : State} {e : Event} {i : Instr} (hc : s.cfg.wellFormed = true)
    (he : s.nextEvent = some e) (ho : s.operationOf e = .ok i) : step s = exec i s.consumeEvent := by
  simp [step, State.fetch, hc, he, ho]

/-- What the operation of an event is: a decoded command, or the dispatch entry of an armed timer. -/
theorem State.operationOf_cases {s : State} {e : Event} {i : Instr} (h : s.operationOf e = .ok i) :
    (∃ w, e = .command w ∧ decodeCommand w = .ok i)
      ∨ ∃ v, e = .tick v ∧ s.armed v = true ∧ i = dispatch v s.mode s.rstate := by
  cases e with
  | command w =>
    refine .inl ⟨w, rfl, ?_⟩
    simp only [State.operationOf] at h
    cases hd : decodeCommand w with
    | ok j => rw [hd] at h; cases h; rfl
    | error r => rw [hd] at h; cases h
  | tick v =>
    refine .inr ⟨v, rfl, ?_⟩
    simp only [State.operationOf] at h
    by_cases ha : s.armed v = true
    · rw [if_pos ha] at h; cases h; exact ⟨ha, rfl⟩
    · rw [if_neg ha] at h; cases h

/-- A command word decodes to a host command, never to a tick entry (R92). -/
theorem decodeCommand_isCommand {w : Word} {i : Instr} (h : decodeCommand w = .ok i) : isCommand i = true := by
  unfold decodeCommand at h
  cases hf : commandRows.find? fun r => r.matchesWord w with
  | none => rw [hf] at h; cases h
  | some r =>
    rw [hf] at h
    cases h
    have hm := List.mem_of_find?_eq_some hf
    simp only [commandRows, List.mem_cons, List.not_mem_nil, or_false] at hm
    rcases hm with h | h | h | h | h | h | h | h | h | h | h | h <;> subst h <;> rfl

/-- A dispatched entry knows its timer, its mode and, in the RTTY mode of timer A, its state (R97). -/
theorem dispatch_knows {s : State} {v : Timer} {i : Instr} (ha : s.armed v = true)
    (h : i = dispatch v s.mode s.rstate) :
    (i = .tickaRttyPause → s.taArmed = true ∧ s.mode = .rttyInterrupt ∧ s.rstate = .pause)
      ∧ (i = .tickaRttyStartbit → s.taArmed = true ∧ s.mode = .rttyInterrupt ∧ s.rstate = .startbit)
      ∧ (i = .tickaRttyByte → s.taArmed = true ∧ s.mode = .rttyInterrupt ∧ s.rstate = .byte)
      ∧ (i = .tickaRttyStopbit → s.taArmed = true ∧ s.mode = .rttyInterrupt ∧ s.rstate = .stopbit)
      ∧ (i = .tickaRttyReload → s.taArmed = true ∧ s.mode = .rttyInterrupt ∧ s.rstate = .reload)
      ∧ (i = .tickaGfsk → s.taArmed = true ∧ s.mode = .gfskSync)
      ∧ (i = .tickaLookup → s.taArmed = true ∧ s.mode = .lookup)
      ∧ (i = .tickbLookup → s.tbArmed = true ∧ s.mode = .lookup) := by
  subst h
  cases v <;> cases hm : s.mode <;> cases hr : s.rstate <;> simp_all [dispatch, State.armed]

end Sys2Proof.Machine
end

