-- ==== Sys2Proof/Laws/Run.lean ====
section
/-! SUPPORT. Runs: the order of the agents' steps is fair, every step takes one event, and every tick of
timer A brings a transmission one tick nearer to its end. -/

namespace Sys2Proof.Machine

/-! ### The order of the agents' steps -/

@[simp] theorem turnAt_succ (n : Nat) : turnAt (n + 1) = (turnAt n).next := rfl

/-- After those who step before it, the turn of a timer comes, and then the next turn. -/
theorem turnAt_passes : ∀ (l : List Agent) (n : Nat), (turnAt n).ahead = l →
    agentAt (n + l.length) = .timer (turnTimer (turnAt n).count)
      ∧ (turnAt (n + l.length + 1)).count = (turnAt n).count + 1 := by
  intro l
  induction l with
  | nil => intro n h; simp [agentAt, Turn.agent, Turn.next, h]
  | cons g l ih =>
    intro n h
    have hl : (turnAt (n + 1)).ahead = l := by simp [Turn.next, h]
    have hc : (turnAt (n + 1)).count = (turnAt n).count := by simp [Turn.next, h]
    have := ih (n + 1) hl
    rwa [hc, show n + 1 + l.length = n + (g :: l).length by simp; omega] at this

/-- The order is fair: at any place each timer's turn is still to come (R274). -/
theorem agentAt_fair (n : Nat) (v : Timer) : ∃ m, n ≤ m ∧ agentAt m = .timer v := by
  obtain ⟨h1, h2⟩ := turnAt_passes _ n rfl
  obtain ⟨h3, -⟩ := turnAt_passes _ (n + (turnAt n).ahead.length + 1) rfl
  by_cases h : turnTimer (turnAt n).count = v
  · exact ⟨_, Nat.le_add_right n _, h ▸ h1⟩
  · refine ⟨_, ?_, h3.trans ?_⟩
    · omega
    · rw [h2]
      revert h
      unfold turnTimer
      cases v <;> split <;> split <;> simp <;> omega

/-! ### One step takes one event -/

/-- No operation touches the configuration, the schedule or the count of choices. -/
theorem exec_sameHost {i : Instr} {s t : State} (h : exec i s = .next t) : sameHost s t := by
  cases ran_of_exec h <;> try (simp [sameHost]; done)
  case polled n h0 h1 hp =>
    exact (polled_induction (sameHost s) hp (by simp [sameHost]) (by simp +contextual [sameHost])
      (by simp +contextual [sameHost]) (by simp +contextual [sameHost]) (by simp +contextual [sameHost])
      (by simp +contextual [sameHost])).1

/-- A step takes the first event of the schedule, if there is one. -/
theorem step_schedule {s t : State} (h : step s = .next t) : t.schedule = s.schedule.tail := by
  rcases step_next_cases h with ⟨rfl, hs, -⟩ | ⟨e, i, -, -, -, he⟩
  · simp [hs]
  · rw [(exec_sameHost he).2.1]
    unfold State.consumeEvent
    cases s.schedule <;> rfl

/-- A step keeps the schedule's kind. -/
theorem step_scheduleKind {s t : State} (h : step s = .next t) : t.scheduleKind = s.scheduleKind := by
  rcases step_next_cases h with ⟨rfl, -⟩ | ⟨e, i, -, -, -, he⟩
  · rfl
  · rw [(exec_sameHost he).2.2.1, State.consumeEvent_scheduleKind]

/-- Beyond the listed events a step of an armed timer, or of a host that goes on, takes one choice. -/
theorem step_choiceCount {s t : State} (h : step s = .next t) (hs : s.schedule = [])
    (ha : s.anyArmed = true ∨ s.scheduleKind = .infinite) : t.choiceCount = s.choiceCount + 1 := by
  rcases step_next_cases h with ⟨-, -, hi, hk⟩ | ⟨e, i, -, -, -, he⟩
  · rcases ha with ha | ha <;> simp_all
  · rw [(exec_sameHost he).2.2.2]
    simp [State.consumeEvent, hs]

/-- Beyond the listed events, when an armed timer's turn comes it ticks (R274). -/
theorem nextEvent_of_turn {s : State} {v : Timer} (hs : s.schedule = []) (hv : s.armed v = true)
    (hg : agentAt s.choiceCount = .timer v) : s.nextEvent = some (.tick v) := by
  cases hk : s.scheduleKind with
  | infinite => simp [State.nextEvent, State.freeEvent, hs, hk, hg, hv]
  | finite =>
    simp only [State.nextEvent, State.silentEvent, hs, hk, hg]
    cases v <;> simp only [State.armed] at hv <;> cases ha : s.taArmed <;> cases hb : s.tbArmed <;> simp_all

/-- A run of one step more. -/
theorem run_succ_of_step {k : Nat} {s t : State} (h : step s = .next t) :
    Host.Core.run Sys2Proof.core (k + 1) s = Host.Core.run Sys2Proof.core k t := by
  have h' : Sys2Proof.core.step s = .next t := h
  simp only [Host.Core.run, h']

/-- A run of one step more that comes through begins with a step that does. -/
theorem run_succ_next {k : Nat} {s u : State} (h : Host.Core.run Sys2Proof.core (k + 1) s = .next u) :
    ∃ t, step s = .next t ∧ Host.Core.run Sys2Proof.core k t = .next u := by
  cases hs : step s with
  | next t => exact ⟨t, rfl, by rwa [run_succ_of_step hs] at h⟩
  | fault f =>
    have h' : Sys2Proof.core.step s = .fault f := hs
    simp only [Host.Core.run, h'] at h
    cases h
  | refused f =>
    have h' : Sys2Proof.core.step s = .refused f := hs
    simp only [Host.Core.run, h'] at h
    cases h

/-- A tick is no host command: a step whose event is not one runs a dispatched entry, or is idle. -/
theorem step_next_tick {s t : State} (h : step s = .next t) (hc : ∀ w, s.nextEvent ≠ some (.command w)) :
    t = s ∨ ∃ v, s.armed v = true
      ∧ exec (dispatch v s.consumeEvent.mode s.consumeEvent.rstate) s.consumeEvent = .next t := by
  rcases step_next_cases h with ⟨rfl, -⟩ | ⟨e, i, -, hn, ho, he⟩
  · exact .inl rfl
  · rcases State.operationOf_cases ho with ⟨w, rfl, -⟩ | ⟨v, -, ha, rfl⟩
    · exact absurd hn (hc w)
    · refine .inr ⟨v, ha, ?_⟩
      rwa [show s.consumeEvent.mode = s.mode by unfold State.consumeEvent; split <;> rfl,
        show s.consumeEvent.rstate = s.rstate by unfold State.consumeEvent; split <;> rfl]

/-! ### Every tick of timer A is progress -/

/-- The ticks of timer A a transmission still needs (R160, R176). -/
def State.ticksLeft (s : State) : Nat :=
  match s.mode with
  | .rttyInterrupt => s.passesLeft
  | .gfskSync | .lookup => 8 * (s.apFe.toNat - s.aidx.toNat) - s.abit.toNat
  | .unused => 0

/-- A bit fetch inside the window brings the cursor one bit nearer to its end. -/
theorem State.advanceBit_progress {s : State} (h : s.aidx < s.apFe) :
    8 * (s.advanceBit.apFe.toNat - s.advanceBit.aidx.toNat) - s.advanceBit.abit.toNat
      < 8 * (s.apFe.toNat - s.aidx.toNat) - s.abit.toNat := by
  have hlt : s.aidx.toNat < s.apFe.toNat := h
  have hb := s.abit.isLt
  have hfe := s.apFe.isLt
  unfold State.advanceBit
  split
  · next h7 => simp [h7]; omega
  · next h7 =>
    have h7' : s.abit.toNat ≠ 7 := fun e => h7 (BitVec.eq_of_toNat_eq e)
    simp; omega

/-- A serviced tick of timer A disarms it, or leaves one tick less to come. -/
theorem tickA_progress {s t : State} (hm : s.mode ≠ .unused)
    (hw : s.mode = .rttyInterrupt → s.rstate ≠ .wait)
    (h : exec (dispatch .a s.mode s.rstate) s = .next t) :
    t.taArmed = false ∨ t.ticksLeft < s.ticksLeft := by
  cases hmode : s.mode with
  | unused => exact absurd hmode hm
  | rttyInterrupt =>
    right
    have hp : s.rttyPass = .next t := by
      rw [← h, hmode]; cases hr : s.rstate <;> simp [State.rttyPass, hr, dispatch, exec]
    have htm : t.mode = .rttyInterrupt := by
      rcases s.rttyPass_cases with ⟨-, he⟩ | ⟨-, he⟩ | ⟨-, he⟩ | ⟨-, he⟩ | ⟨-, he⟩ <;> rw [he] at hp
      · cases hp; simpa using hmode
      · cases hp; simpa using hmode
      · cases hp; simpa using hmode
      · cases hp; exact hmode
      · rcases s.rttyCharOrDone_cases with ⟨-, hc⟩ | ⟨b, -, -, hc⟩ | ⟨f, -, -, hc⟩ <;> rw [hc] at hp <;>
          cases hp <;> exact hmode
    have := State.passesLeft_pass (hw hmode) hp
    simp only [State.ticksLeft, hmode, htm]
    omega
  | gfskSync =>
    rw [hmode] at h
    cases ran_of_exec h with
    | gfskDone => exact .inl rfl
    | gfskBit b hlt hb =>
      right
      have := s.advanceBit_progress hlt
      simpa [State.ticksLeft, hmode] using this
  | lookup =>
    rw [hmode] at h
    cases ran_of_exec h with
    | lookupDone => exact .inl rfl
    | lookupKeep hlt hb =>
      right
      have := s.advanceBit_progress hlt
      simpa [State.ticksLeft, hmode] using this
    | lookupChange hlt hb =>
      right
      have := s.advanceBit_progress hlt
      simpa [State.ticksLeft, hmode] using this

/-- A tick of timer B needs nothing of what timer A still has to do. -/
theorem tickB_ticksLeft {s t : State} (h : exec .tickbLookup s = .next t) : t.ticksLeft = s.ticksLeft := by
  cases ran_of_exec h
  cases hm : s.mode <;> simp [State.ticksLeft, State.passesLeft, hm]

end Sys2Proof.Machine
end

