-- ==== Sys2Proof/Tests/Slice0.lean ====
section
/-! SUPPORT. The model's own tests. Expected results are those of spec/95_test_vectors.md, or worked out by
hand from the rule named in the comment; none is the model's own answer. Then one witness per statement that
has hypotheses: a concrete state and operands that meet all of them. -/

namespace Sys2Proof.Tests

open Sys2Proof Sys2Proof.Machine

/-! ### A configuration and four small states -/

/-- The conventions and example parameters of spec/95 (opening, section 2.5); the OPEN values are distinct
small numbers, on which no vector depends. -/
def cfg : Config :=
  let p : ProfileConsts := ⟨501, 502, 503, 504, 6, 11⟩
  ⟨330, 350, .seven, .one, 0, .clk12, p, p, p, 10, 10, -1280, -1280, 201, 200, 144800000, 301, 302, 15000, 1⟩

/-- The reset state with eight readiness draws, all true. -/
def idle : State := { State.resetWith cfg with draws := List.replicate 8 true }

/-- Program 3.1 after its second tick: RTTY runs, one character of one under way. -/
def rttyRun : State :=
  { idle with
    taArmed := true, taCmp := 501, txReady := true, txConsumed := false
    rstate := .byte, rbitcnt := 6, rcur := 0x20, txidx := 1, txlen := 1, txbuf := [(0, 0x41)] }

/-- Program 3.3 after its START: GFSK runs over the window 1 to 3. -/
def gfskRun : State :=
  { idle with
    mode := .gfskSync, taArmed := true, taCmp := 502, apReady := true, apDone := false
    apFs := 1, apFe := 3, aidx := 1, apbuf := [(0, 0x7E), (1, 0xA5), (2, 0x0F), (3, 0x7E)] }

/-- Program 3.4 after its START: lookup runs over the window 1 to 2. -/
def lookupRun : State :=
  { idle with
    mode := .lookup, taArmed := true, tbArmed := true, taCmp := 503, tbCmp := 504
    apReady := true, apDone := false, apFs := 1, apFe := 2, aidx := 1, lstep := 6
    apbuf := [(0, 0x7E), (1, 0xFD), (2, 0x7E)] }

/-- The next state of an outcome satisfies a test. -/
def after (r : Result) (p : State → Bool) : Bool :=
  match r with
  | .next t => p t
  | _ => false

/-! ### WellFormed: each check refuses an ill-formed term -/

theorem test_wf_example : cfg.wellFormed = true := by decide
theorem test_wf_txCap_zero : Config.wellFormed { cfg with txCap := 0 } = false := by decide
theorem test_wf_txCap_over : Config.wellFormed { cfg with txCap := 4096 } = false := by decide
theorem test_wf_apCap_zero : Config.wellFormed { cfg with apCap := 0 } = false := by decide
theorem test_wf_apCap_over : Config.wellFormed { cfg with apCap := 4096 } = false := by decide
theorem test_wf_step1200 : Config.wellFormed { cfg with clk12 := { cfg.clk12 with step1200 := 0 } } = false := by
  decide
theorem test_wf_step2200 : Config.wellFormed { cfg with clk12 := { cfg.clk12 with step2200 := 0 } } = false := by
  decide
theorem test_wf_lut1200_low : Config.wellFormed { cfg with lutOffs1200 := -144800011 } = false := by decide
theorem test_wf_lut1200_high : Config.wellFormed { cfg with lutMult1200 := 16276000 } = false := by decide
theorem test_wf_lut2200_low : Config.wellFormed { cfg with lutOffs2200 := -144800011 } = false := by decide
theorem test_wf_lut2200_high : Config.wellFormed { cfg with lutOffs2200 := 4150170000 } = false := by decide
theorem test_wf_nCtsIsr : Config.wellFormed { cfg with nCtsIsr := 0 } = false := by decide
/-- An operation runs under a well-formed configuration only (R11). -/
theorem test_wf_step_refuses : step { idle with cfg := { cfg with txCap := 0 } } = .refused .illFormedConfig := by
  rfl

/-! ### Decoding: words and keys written out from the encoding strings of R92 and R97 -/

theorem test_decode_nop : decodeCommand 0b00000000_000000000000_000000000000 = .ok .nop := by decide
theorem test_decode_stopTimers : decodeCommand 0b00000001_000000000000_000000000000 = .ok .stopTimers := by decide
theorem test_decode_setMode : decodeCommand 0b00000010_000000000000_000000000010 = .ok (.setMode .unused) := by
  decide
theorem test_decode_abort : decodeCommand 0b00000011_000000000000_000000000000 = .ok .abort := by decide
theorem test_decode_startRtty :
    decodeCommand 0b00010000_000000000000_100000000001 = .ok (.startRtty 2049) := by decide
theorem test_decode_txRttyPolled :
    decodeCommand 0b00010001_000000000000_000000000010 = .ok (.txRttyPolled 2) := by decide
theorem test_decode_startAprsGfsk :
    decodeCommand 0b00100000_100000000001_010000000011 = .ok (.startAprsGfsk 2049 1027) := by decide
theorem test_decode_startAprsLookup :
    decodeCommand 0b00100001_000000000001_100000000010 = .ok (.startAprsLookup 1 2050) := by decide
theorem test_decode_wrTxbuf :
    decodeCommand 0b00110000_100000000001_0000_10100101 = .ok (.wrTxbuf 2049 0xA5) := by decide
theorem test_decode_wrApbuf :
    decodeCommand 0b00110001_000000010011_0000_01111110 = .ok (.wrApbuf 19 0x7E) := by decide
theorem test_decode_rdreg : decodeCommand 0b01000000_000000000000_0000_10010010 = .ok (.rdreg 0x92) := by decide
theorem test_decode_clrErr : decodeCommand 0b01000001_000000000000_000000000_101 = .ok (.clrErr 5) := by decide
/-- The reserved words of spec/95 section 2.7. -/
theorem test_decode_reserved :
    ([0x00000001, 0x02000004, 0x10001001, 0x30001169, 0x41000008].map decodeCommand
        = List.replicate 5 (.error .mustBeZero))
      ∧ [0x04000000, 0x12000000, 0x22000000, 0x32000000, 0x42000000, 0xFF000000].map decodeCommand
        = List.replicate 6 (.error .unassignedOpcode) := by decide
/-- The six keys of timer A in mode 0, and the two that select nothing (R97, R98). -/
theorem test_decode_rtty_keys :
    [0b000000, 0b000001, 0b000010, 0b000011, 0b000100, 0b000101, 0b000110, 0b000111].map decodeKey
      = [.ok .tickaRttyPause, .ok .tickaRttyStartbit, .ok .tickaRttyByte, .ok .tickaRttyStopbit,
        .ok .tickaRttyReload, .ok .tickaRttyWait, .error .unusedKey, .error .unusedKey] := by decide
/-- The seven other entries, at both ends of the don't-care field (R96, R97). -/
theorem test_decode_other_keys :
    [0b001000, 0b001111, 0b010000, 0b010111, 0b011000, 0b011111, 0b100000, 0b100111, 0b101000, 0b101111,
      0b110000, 0b110111, 0b111000, 0b111111].map decodeKey
      = [.ok .tickaGfsk, .ok .tickaGfsk, .ok .tickaUnused, .ok .tickaUnused, .ok .tickaLookup,
        .ok .tickaLookup, .ok .tickbRtty, .ok .tickbRtty, .ok .tickbGfsk, .ok .tickbGfsk,
        .ok .tickbUnused, .ok .tickbUnused, .ok .tickbLookup, .ok .tickbLookup] := by decide

/-! ### The coordinator (spec/95 sections 2.6 and 2.8) -/

theorem test_nop : after (exec .nop idle) (fun t => t = idle) = true := by decide
/-- The stalled state: everything kept but the armed bit. -/
theorem test_stopTimers : after (exec .stopTimers rttyRun) (fun t => t = { rttyRun with taArmed := false }) = true := by decide
theorem test_setMode : after (exec (.setMode .unused) idle) (fun t => t = { idle with mode := .unused }) = true := by decide
theorem test_setMode_busy : after (exec (.setMode .lookup) rttyRun)
    (fun t => t.mode = .rttyInterrupt ∧ t.reg 4 = 4) = true := by decide
theorem test_abort_stalled : after (exec .abort { rttyRun with taArmed := false })
    (fun t => t.reg 5 = 0xA ∧ t.rstate = .wait ∧ t.rbitcnt = 0 ∧ t.rcur = 0 ∧ t.txidx = 0 ∧ t.txlen = 1
      ∧ t.mode = .rttyInterrupt ∧ t.reg 4 = 0) = true := by decide
theorem test_abort_lookup : after (exec .abort { lookupRun with lcur := 33, lstep := 11, atone := .t2200 })
    (fun t => t.mode = .rttyInterrupt ∧ t.reg 1 = 0 ∧ t.lcur = 0 ∧ t.lstep = 0 ∧ t.atone = .t1200
      ∧ t.apFs = 1 ∧ t.apFe = 2) = true := by decide
/-- START_RTTY of the stalled state: released and handed over again, no error. -/
theorem test_startRtty : after (exec (.startRtty 1) { rttyRun with taArmed := false })
    (fun t => t.reg 4 = 0 ∧ t.reg 5 = 9 ∧ t.rstate = .startbit ∧ t.txidx = 0 ∧ t.rcur = 0 ∧ t.taArmed
      ∧ t.taCmp = 501) = true := by decide
/-- Section 2.8: both ModeConflict and BufferOverrun. -/
theorem test_startRtty_too_long : after (exec (.startRtty 331) rttyRun)
    (fun t => t.reg 4 = 6 ∧ t.reg 5 = 0xA ∧ t.rstate = .wait ∧ t.mode = .rttyInterrupt ∧ t.txlen = 1
      ∧ t.reg 1 = 0) = true := by decide
/-- Program 3.5: APRS started while RTTY runs. -/
theorem test_startAprsGfsk : after (exec (.startAprsGfsk 0 1) rttyRun)
    (fun t => t.reg 4 = 4 ∧ t.mode = .gfskSync ∧ t.taArmed ∧ t.taCmp = 502 ∧ t.reg 5 = 6
      ∧ t.rstate = .wait ∧ t.rcur = 0 ∧ t.txidx = 0 ∧ t.txlen = 1 ∧ t.apFe = 1 ∧ t.aidx = 0) = true := by
  decide
theorem test_startAprsGfsk_empty : after (exec (.startAprsGfsk 7 3) idle)
    (fun t => t.mode = .gfskSync ∧ t.apFs = 7 ∧ t.apFe = 3 ∧ t.aidx = 7 ∧ t.reg 1 = 0 ∧ t.reg 5 = 0xA) = true := by
  decide
theorem test_startAprsLookup : after (exec (.startAprsLookup 0 350) idle)
    (fun t => t.mode = .lookup ∧ t.apFe = 350 ∧ t.reg 1 = 3 ∧ t.lstep = 6 ∧ t.taCmp = 503 ∧ t.tbCmp = 504) = true := by
  decide
theorem test_startAprsLookup_too_long : after (exec (.startAprsLookup 0 351) idle)
    (fun t => t.reg 4 = 2 ∧ t.mode = .rttyInterrupt ∧ t.apFe = 0 ∧ t.reg 1 = 0) = true := by decide
theorem test_wrTxbuf : after (exec (.wrTxbuf 329 0x55) idle) (fun t => t.txbuf = [(329, 0x55)] ∧ t.reg 4 = 0) = true := by
  decide
theorem test_wrTxbuf_over : after (exec (.wrTxbuf 330 0x55) idle) (fun t => t.txbuf = [] ∧ t.reg 4 = 2) = true := by
  decide
/-- Legal while RTTY runs: APBUF is not in flight. -/
theorem test_wrApbuf : after (exec (.wrApbuf 0 0xFF) rttyRun) (fun t => t.apbuf = [(0, 0xFF)]) = true := by decide
theorem test_wrApbuf_over : after (exec (.wrApbuf 350 0) idle) (fun t => t.apbuf = [] ∧ t.reg 4 = 2) = true := by
  decide
theorem test_rdreg_flags : after (exec (.rdreg 5) idle) (fun t => t.rdregValues = [0xA]) = true := by decide
theorem test_rdreg_beyond : after (exec (.rdreg 200) rttyRun) (fun t => t.rdregValues = [0]) = true := by decide
theorem test_clrErr : after (exec (.clrErr 4) { idle with errCnr := true, errMode := true })
    (fun t => t.reg 4 = 1) = true := by decide

/-! ### RTTY (spec/95 sections 2.3, 2.8, programs 3.1 and 3.7) -/

theorem test_pause : after (exec .tickaRttyPause { rttyRun with rstate := .pause, rpause := 3 })
    (fun t => t.rpause = 2 ∧ t.rstate = .pause ∧ t.radioTrace = []) = true := by decide
theorem test_pause_last : after (exec .tickaRttyPause { rttyRun with rstate := .pause, rpause := 1 })
    (fun t => t.rpause = 0 ∧ t.rstate = .startbit) = true := by decide
theorem test_startbit : after (exec .tickaRttyStartbit { rttyRun with rstate := .startbit, txidx := 0 })
    (fun t => t.rcur = 0x41 ∧ t.txidx = 1 ∧ t.rbitcnt = 7 ∧ t.rstate = .byte ∧ t.radioTrace = [.freqFast 200]) = true := by
  decide
theorem test_byte : after (exec .tickaRttyByte { rttyRun with rcur := 0x41, rbitcnt := 7 })
    (fun t => t.rcur = 0x20 ∧ t.rbitcnt = 6 ∧ t.radioTrace = [.freqFast 201]) = true := by decide
/-- Section 2.8: a false draw drops the event, sets STATUS bit 0 and changes nothing else. -/
theorem test_byte_not_ready :
    after (exec .tickaRttyByte { rttyRun with rcur := 0x41, rbitcnt := 7, draws := [false] })
      (fun t => t.rcur = 0x20 ∧ t.rbitcnt = 6 ∧ t.radioTrace = [] ∧ t.reg 4 = 1) = true := by decide
theorem test_stopbit_first : after (exec .tickaRttyStopbit
      { rttyRun with rstate := .stopbit, rbitcnt := 2, cfg := { cfg with rttyNstop := .two } })
    (fun t => t.rbitcnt = 1 ∧ t.rstate = .stopbit ∧ t.radioTrace = [.freqFast 201]) = true := by decide
theorem test_stopbit_second : after (exec .tickaRttyStopbit
      { rttyRun with rstate := .stopbit, rbitcnt := 1, cfg := { cfg with rttyNstop := .two } })
    (fun t => t.rbitcnt = 0 ∧ t.rstate = .reload ∧ t.radioTrace = []) = true := by decide
theorem test_reload : after (exec .tickaRttyReload
      { rttyRun with rstate := .reload, txlen := 2, txbuf := [(0, 0x48), (1, 0x69)],
                     cfg := { cfg with rttyNbits := .eight } })
    (fun t => t.rcur = 0x69 ∧ t.txidx = 2 ∧ t.rbitcnt = 8 ∧ t.rstate = .byte) = true := by decide
theorem test_reload_done : after (exec .tickaRttyReload { rttyRun with rstate := .reload })
    (fun t => t.rstate = .wait ∧ t.reg 5 = 0xA ∧ t.taArmed = false ∧ t.radioTrace = []) = true := by decide
theorem test_wait : after (exec .tickaRttyWait rttyRun) (fun t => t = rttyRun) = true := by decide
/-- Program 3.7: the letter "A" in one command, S M S S S S S M and the stop M. -/
theorem test_txRttyPolled : after (exec (.txRttyPolled 1) { idle with draws := List.replicate 9 true, txbuf := [(0, 0x41)] })
    (fun t => t.radioTrace = [200, 201, 200, 200, 200, 200, 200, 201, 201].map .freqFast ∧ t.rstate = .wait
      ∧ t.txidx = 1 ∧ t.taCmp = 0 ∧ t.reg 5 = 0xA ∧ t.reg 4 = 0) = true := by decide
theorem test_txRttyPolled_empty : after (exec (.txRttyPolled 0) idle)
    (fun t => t.txlen = 0 ∧ t.rstate = .wait ∧ t.radioTrace = [] ∧ t.reg 5 = 0xA) = true := by decide

/-! ### APRS (spec/95 sections 2.4 and 2.5) -/

theorem test_gfsk_zero_bit : after (exec .tickaGfsk { gfskRun with abit := 1 })
    (fun t => t.abit = 2 ∧ t.atone = .t2200 ∧ t.radioTrace = [.freqFast 302]) = true := by decide
theorem test_gfsk_last_bit : after (exec .tickaGfsk { gfskRun with aidx := 2, abit := 7 })
    (fun t => t.aidx = 3 ∧ t.abit = 0 ∧ t.atone = .t2200 ∧ t.radioTrace = [.freqFast 302]) = true := by decide
theorem test_lookup_one_bit : after (exec .tickaLookup { lookupRun with lcur := 12 })
    (fun t => t.abit = 1 ∧ t.atone = .t1200 ∧ t.lcur = 12 ∧ t.lstep = 6 ∧ t.radioTrace = []) = true := by decide
theorem test_lookup_zero_bit : after (exec .tickaLookup { lookupRun with abit := 1, lcur := 30 })
    (fun t => t.abit = 2 ∧ t.atone = .t2200 ∧ t.lcur = 0 ∧ t.lstep = 11) = true := by decide
theorem test_sample : after (exec .tickbLookup { lookupRun with lcur := 12 })
    (fun t => t.lcur = 18 ∧ t.radioTrace = [.freqFast 144800370]) = true := by decide
theorem test_sample_wraps : after (exec .tickbLookup { lookupRun with lcur := 252 })
    (fun t => t.lcur = 2 ∧ t.radioTrace = [.freqFast 144799880]) = true := by decide
theorem test_unusedA : after (exec .tickaUnused idle) (fun t => t = idle) = true := by decide
theorem test_rttyB : after (exec .tickbRtty rttyRun) (fun t => t = rttyRun) = true := by decide
theorem test_gfskB : after (exec .tickbGfsk gfskRun) (fun t => t = gfskRun) = true := by decide
theorem test_unusedB : after (exec .tickbUnused idle) (fun t => t = idle) = true := by decide

/-! ### Pure functions and host calls (spec/95 sections 2.1 and 1.4; R101) -/

theorem test_devCode : devCode 228 30000000 8 = some 15 ∧ devCode 4294967295 26000000 8 = some 346430740
    ∧ devCode 1 0 8 = none := by decide
theorem test_start_word : callStartAprsGfsk [] 2 18 = some [.command 0x20002012] := by decide
/-- A load one byte longer than the indices a buffer write can name has no expansion (R94; log entry 29). -/
theorem test_load_too_long : loadTx (List.replicate 4097 0) = none ∧ loadAp (List.replicate 4097 0) = none :=
  ⟨if_neg (by rw [List.length_replicate]; decide), if_neg (by rw [List.length_replicate]; decide)⟩
/-- The two keys that select nothing are not placed (R98; log entry 15); the key of WAIT is. -/
theorem test_unused_keys_not_placed : idle.withFetchWord 8 0b000110 = idle ∧ idle.withFetchWord 8 0b000111 = idle
    ∧ (idle.withFetchWord 8 0b000101).schedule = [.tick .a] := by decide
theorem test_pollFlags : pollFlags = .command 0x40000005 ∧ waitTxEnds 0xA = true ∧ waitApEnds 6 = false := by
  decide

/-! ### Witnesses: for each statement with hypotheses, a state and operands that meet all of them -/

theorem witness_AcceptedWordIsItsEncoding : decodeCommand 0x30001069 = .ok (.wrTxbuf 1 0x69) := by decide

/-- A word of a row, and a word of none. -/
theorem witness_CommandRowsDecideDisjointly :
    (∃ r ∈ commandRows, (0x10000001 : Word) &&& r.mask = r.pattern)
      ∧ ∀ r ∈ commandRows, (0x04000000 : Word) &&& r.mask ≠ r.pattern := by
  refine ⟨⟨_, .tail _ (.tail _ (.tail _ (.tail _ (.head _)))), by decide⟩, ?_⟩
  simp only [commandRows, List.forall_mem_cons, List.not_mem_nil, false_implies, implies_true, and_true]
  decide

theorem witness_ReservedWordsAndNoOthersAreRefused :
    let s : State := { idle with schedule := [.command 0x02000004] }
    s.cfg.wellFormed = true ∧ s.schedule = .command 0x02000004 :: [] := by decide

/-- Every clause of R95 at the edge of its range: a reserved word, and beside it a word that is not. -/
theorem witness_reservedWord_edges :
    (reservedWord 0x04000000 ∧ reservedWord 0xFF000000)
      ∧ (reservedWord 0x00000001 ∧ ¬ reservedWord 0x00000000)
      ∧ (reservedWord 0x02000004 ∧ ¬ reservedWord 0x02000003)
      ∧ (reservedWord 0x11001000 ∧ ¬ reservedWord 0x11000FFF)
      ∧ (reservedWord 0x30FFF100 ∧ ¬ reservedWord 0x30FFF0FF)
      ∧ (reservedWord 0x40000100 ∧ ¬ reservedWord 0x400000FF)
      ∧ (reservedWord 0x41000008 ∧ ¬ reservedWord 0x41000007) ∧ ¬ reservedWord 0x21FFFFFF := by
  refine ⟨⟨?_, ?_⟩, ⟨?_, ?_⟩, ⟨?_, ?_⟩, ⟨?_, ?_⟩, ⟨?_, ?_⟩, ⟨?_, ?_⟩, ⟨?_, ?_⟩, ?_⟩ <;>
    unfold reservedWord reservedFields <;> decide

theorem witness_StepRunsScheduledCommand :
    let s : State := { idle with schedule := [.command 0x10000001] }
    s.cfg.wellFormed = true ∧ s.schedule = .command 0x10000001 :: []
      ∧ decodeCommand 0x10000001 = .ok (.startRtty 1) := by decide

theorem witness_StepRunsDispatchedTick :
    let s : State := { lookupRun with schedule := [.tick .b] }
    s.cfg.wellFormed = true ∧ s.schedule = .tick .b :: [] ∧ s.armed .b = true := by decide

theorem witness_UnarmedTickIsNotServiced :
    let s : State := { rttyRun with schedule := [.tick .b] }
    s.cfg.wellFormed = true ∧ s.schedule = .tick .b :: [] ∧ s.armed .b = false := by decide

/-- A stable block, and one with an armed timer; the witnesses of the other clauses follow below. -/
theorem witness_SilentHostStep :
    (idle.cfg.wellFormed = true ∧ idle.schedule = [] ∧ idle.scheduleKind = .finite ∧ idle.anyArmed = false)
      ∧ lookupRun.cfg.wellFormed = true ∧ lookupRun.schedule = [] ∧ lookupRun.scheduleKind = .finite ∧ lookupRun.anyArmed = true := by decide

/-- SET_MODE: each clause. -/
theorem witness_SetModeOnlyWhenIdle :
    (idle.taArmed = false ∧ idle.tbArmed = false) ∧ (rttyRun.taArmed = true ∨ rttyRun.tbArmed = true) := by decide

/-- The shortest and the longest accepted length, without and with a pause. -/
theorem witness_StartRttyAccepted :
    let s : State := { idle with cfg := { cfg with rttyPauseTicks := 1 } }
    ((1 : Index) ≠ 0 ∧ (1 : Index).toNat ≤ idle.cfg.txCap ∧ idle.cfg.rttyPauseTicks = 0)
      ∧ (330 : Index) ≠ 0 ∧ (330 : Index).toNat ≤ s.cfg.txCap ∧ s.cfg.rttyPauseTicks ≠ 0 := by decide

/-- Length 0, and the first length beyond the capacity; each of the two commands. -/
theorem witness_StartRttyEmptyOrTooLong :
    ((0 : Index) = 0 ∨ idle.cfg.txCap < (0 : Index).toNat) ∧ idle.cfg.txCap < (331 : Index).toNat
      ∧ Instr.startRtty 0 ∈ [Instr.startRtty 0, .txRttyPolled 0]
      ∧ Instr.txRttyPolled 331 ∈ [Instr.startRtty 331, .txRttyPolled 331] := by decide

theorem witness_StartGfskAccepted :
    ((0 : Index) < 350 ∧ (350 : Index).toNat ≤ idle.cfg.apCap)
      ∧ (349 : Index) < 350 ∧ (1 : Index) < 3 ∧ (3 : Index).toNat ≤ rttyRun.cfg.apCap := by decide

theorem witness_StartLookupAccepted :
    ((1 : Index) < 2 ∧ (2 : Index).toNat ≤ idle.cfg.apCap) ∧ (349 : Index) < 350
      ∧ (350 : Index).toNat ≤ lookupRun.cfg.apCap := by decide

/-- An empty window, a window that ends before it starts, and the first end beyond the capacity. -/
theorem witness_StartAprsEmptyOrTooLong :
    ((5 : Index) ≤ 5 ∧ (5 : Index).toNat ≤ idle.cfg.apCap)
      ∧ ((3 : Index) ≤ 7 ∧ (3 : Index).toNat ≤ idle.cfg.apCap)
      ∧ idle.cfg.apCap < (351 : Index).toNat
      ∧ (Instr.startAprsLookup 0 351 = .startAprsGfsk 0 351 ∧ Mode.lookup = .gfskSync
        ∨ Instr.startAprsLookup 0 351 = .startAprsLookup 0 351 ∧ Mode.lookup = .lookup)
      ∧ (Instr.startAprsGfsk 5 5 = .startAprsGfsk 5 5 ∧ Mode.gfskSync = .gfskSync
        ∨ Instr.startAprsGfsk 5 5 = .startAprsLookup 5 5 ∧ Mode.gfskSync = .lookup) := by decide

theorem witness_WriteTxbufStoresOneByte :
    ((0 : Index).toNat < idle.cfg.txCap ∧ idle.txReady = false) ∧ (329 : Index).toNat < gfskRun.cfg.txCap
      ∧ gfskRun.txReady = false := by decide

theorem witness_WriteApbufStoresOneByte :
    ((0 : Index).toNat < idle.cfg.apCap ∧ idle.apReady = false) ∧ (349 : Index).toNat < rttyRun.cfg.apCap
      ∧ rttyRun.apReady = false := by decide

/-- The first index beyond each capacity, TXBUF in flight or not. -/
theorem witness_WriteBeyondCapacityRaisesOverrun :
    (idle.cfg.txCap ≤ (330 : Index).toNat ∧ rttyRun.cfg.txCap ≤ (330 : Index).toNat)
      ∧ idle.cfg.apCap ≤ (350 : Index).toNat := by decide

/-- Each buffer in flight, at the last index it has. -/
theorem witness_WriteInFlightIsHandoffViolation :
    ((329 : Index).toNat < rttyRun.cfg.txCap ∧ rttyRun.txReady = true)
      ∧ (349 : Index).toNat < gfskRun.cfg.apCap ∧ gfskRun.apReady = true := by decide

/-- RDREG: the last numbered register and the first number beyond. -/
theorem witness_ReadRegisterReturnsTheNumberedRegister :
    (18 : BitVec 8) = 18 ∧ 19 ≤ (19 : BitVec 8).toNat ∧ 19 ≤ (255 : BitVec 8).toNat
      ∧ lookupRun.atone = .t1200 := by decide

/-- PAUSE: counts 0 and 1 leave, 2 stays. -/
theorem witness_PauseCountsDown :
    let one : State := { idle with rpause := 1 }
    let two : State := { idle with rpause := 2 }
    idle.rpause.toNat ≤ 1 ∧ one.rpause.toNat ≤ 1 ∧ 1 < two.rpause.toNat := by decide

theorem witness_CharacterStarts :
    let s : State := { rttyRun with rstate := .startbit, txidx := 0 }
    Instr.tickaRttyStartbit ∈ [Instr.tickaRttyStartbit, .tickaRttyReload]
      ∧ s.txidx < s.txlen ∧ s.txidx.toNat < s.cfg.txCap ∧ s.txbuf.read s.txidx.toNat = some 0x41 := by decide

theorem witness_RttyCompletes :
    Instr.tickaRttyReload ∈ [Instr.tickaRttyStartbit, .tickaRttyReload] ∧ rttyRun.txlen ≤ rttyRun.txidx := by decide

theorem witness_UnwrittenCharacterFaults :
    let s : State := { rttyRun with rstate := .reload, txlen := 2 }
    Instr.tickaRttyReload ∈ [Instr.tickaRttyStartbit, .tickaRttyReload]
      ∧ s.txidx < s.txlen ∧ s.txidx.toNat < s.cfg.txCap ∧ s.txbuf.read s.txidx.toNat = none := by decide

/-- BYTE: the last bit of a character and one before it, a 1 and a 0. -/
theorem witness_ByteSendsTheLowBit :
    let last : State := { rttyRun with rbitcnt := 1 }
    last.rbitcnt.toNat ≤ 1 ∧ 1 < rttyRun.rbitcnt.toNat := by decide

/-- STOPBIT: the first of two stop ticks, and the second. -/
theorem witness_StopbitHoldsTheMark :
    let first : State := { rttyRun with rstate := .stopbit, rbitcnt := 2, cfg := { cfg with rttyNstop := .two } }
    let second : State := { first with rbitcnt := 1 }
    (first.rbitcnt = stopBitCount first.cfg.rttyNstop ∧ 1 < first.rbitcnt.toNat)
      ∧ second.rbitcnt ≠ stopBitCount second.cfg.rttyNstop ∧ second.rbitcnt.toNat ≤ 1 := by decide

theorem witness_PolledTransmissionCompletes :
    (1 : Index) ≠ 0 ∧ (1 : Index).toNat ≤ rttyRun.cfg.txCap
      ∧ ∀ j, j < (1 : Index).toNat → (rttyRun.txbuf.read j).isSome = true := by decide

theorem witness_PolledTransmissionEmitsEveryCharacter :
    let s : State := { rttyRun with draws := List.replicate 9 true ++ [false] }
    (1 : Index) ≠ 0 ∧ (1 : Index).toNat ≤ s.cfg.txCap ∧ [(0x41 : Byte)].length = (1 : Index).toNat
      ∧ (∀ j, j < (1 : Index).toNat → s.txbuf.read j = [(0x41 : Byte)][j]?)
      ∧ s.draws = List.replicate ((1 : Index).toNat * (bitsPerChar s.cfg + 2)) true ++ [false] := by decide

theorem witness_RttyTransmissionByTicks :
    let s : State := { rttyRun with
      draws := List.replicate 9 true, schedule := .command 0x10000001 :: List.replicate 10 (.tick .a) }
    s.cfg.wellFormed = true ∧ (1 : Index) ≠ 0 ∧ (1 : Index).toNat ≤ s.cfg.txCap
      ∧ [(0x41 : Byte)].length = (1 : Index).toNat
      ∧ (∀ j, j < (1 : Index).toNat → s.txbuf.read j = [(0x41 : Byte)][j]?)
      ∧ s.draws = List.replicate ((1 : Index).toNat * (bitsPerChar s.cfg + 2)) true
      ∧ s.schedule = eventOf (.startRtty 1) :: List.replicate (s.cfg.rttyPauseTicks.toNat
        + (1 : Index).toNat * (1 + bitsPerChar s.cfg + stopsPerChar s.cfg) + 1) (.tick .a) := by decide

theorem witness_GfskTransmissionByTicks :
    let s : State := { gfskRun with
      draws := List.replicate 16 true, schedule := .command 0x20001003 :: List.replicate 17 (.tick .a) }
    let window : List Byte := [0xA5, 0x0F]
    s.cfg.wellFormed = true ∧ (1 : Index) < 3 ∧ (3 : Index).toNat ≤ s.cfg.apCap
      ∧ (1 : Index).toNat + window.length = (3 : Index).toNat
      ∧ (∀ j, j < window.length → s.apbuf.read ((1 : Index).toNat + j) = window[j]?)
      ∧ s.draws = List.replicate (8 * window.length) true
      ∧ s.schedule = eventOf (.startAprsGfsk 1 3) :: List.replicate (8 * window.length + 1) (.tick .a) := by
  decide

/-- A 1 at bit 0 and a 0 at bit 1. -/
theorem witness_GfskTickSendsOneBit :
    gfskRun.aidx < gfskRun.apFe ∧ gfskRun.aidx.toNat < gfskRun.cfg.apCap
      ∧ gfskRun.apbuf.read gfskRun.aidx.toNat = some 0xA5
      ∧ (0xA5 : Byte).getLsbD gfskRun.abit.toNat = true ∧ (0xA5 : Byte).getLsbD 1 = false := by decide

theorem witness_LookupTickTakesOneBit :
    lookupRun.aidx < lookupRun.apFe ∧ lookupRun.aidx.toNat < lookupRun.cfg.apCap
      ∧ lookupRun.apbuf.read lookupRun.aidx.toNat = some 0xFD
      ∧ (0xFD : Byte).getLsbD lookupRun.abit.toNat = true ∧ (0xFD : Byte).getLsbD 1 = false := by decide

theorem witness_AprsCompletes :
    let s : State := { lookupRun with aidx := 2 }
    Instr.tickaLookup ∈ [Instr.tickaGfsk, .tickaLookup] ∧ s.apFe ≤ s.aidx := by decide

theorem witness_UnwrittenWindowByteFaults :
    let s : State := { gfskRun with apbuf := [(0, 0x7E)] }
    Instr.tickaGfsk ∈ [Instr.tickaGfsk, .tickaLookup]
      ∧ s.aidx < s.apFe ∧ s.aidx.toNat < s.cfg.apCap ∧ s.apbuf.read s.aidx.toNat = none := by decide

/-- Both tones. -/
theorem witness_LookupSampleIsScaledAndEmitted :
    let other : State := { lookupRun with atone := .t2200 }
    (lookupRun.cfg.wellFormed = true ∧ lookupRun.atone = .t1200)
      ∧ other.cfg.wellFormed = true ∧ other.atone = .t2200 := by decide

theorem witness_LookupSampleStream :
    let s : State := { lookupRun with schedule := [.tick .b, .tick .b, .tick .a], draws := [true, true, false] }
    s.cfg.wellFormed = true ∧ s.mode = .lookup ∧ s.tbArmed = true
      ∧ s.schedule = List.replicate 2 (.tick .b) ++ [.tick .a]
      ∧ s.draws = List.replicate 2 true ++ [false] := by decide

/-- Two states that differ in the error, the trace and the answers to come. -/
theorem witness_ReadinessTouchesOnlyTraceAndErrCnr :
    Instr.tickaRttyByte ≠ .rdreg 4
      ∧ rttyRun.eraseRadio
        = State.eraseRadio { rttyRun with errCnr := true, radioTrace := [.freqFast 1], draws := [false] } := by
  decide

theorem witness_ErrorBitsSteerNothing :
    Instr.startRtty 331 ≠ .rdreg 4
      ∧ rttyRun.eraseErrors = State.eraseErrors { rttyRun with errBovr := true, errMode := true } := by decide

theorem witness_OnlyClearErrorsClearsAnErrorBit :
    (∀ k, Instr.abort ≠ .clrErr k)
      ∧ ∃ t, exec .abort { rttyRun with errCnr := true, errBovr := true, errMode := true } = .next t :=
  ⟨fun _ => Instr.noConfusion, _, rfl⟩

/-- Each of the three errors raised: a false draw, a length beyond the capacity, SET_MODE while armed. -/
theorem witness_OnlyListedOperationsRaiseErrors :
    ({ rttyRun with draws := [false] } : State).radioReady = false
      ∧ (rttyRun.errCnr = false ∧ rttyRun.errBovr = false ∧ rttyRun.errMode = false)
      ∧ after (exec .tickaRttyByte { rttyRun with draws := [false] }) (fun t => t.errCnr) = true
      ∧ after (exec (.startRtty 331) rttyRun) (fun t => t.errBovr) = true
      ∧ after (exec (.setMode .lookup) rttyRun) (fun t => t.errMode) = true := by decide

/-- Each of the faults that can be: a write in flight, a byte never written, an index outside the buffer. -/
theorem witness_OnlyListedOperationsFault :
    exec (.wrTxbuf 0 0x42) rttyRun = .fault .handoffViolation
      ∧ exec .tickaRttyReload { rttyRun with txlen := 2 } = .fault .unwrittenBufferRead
      ∧ exec .tickaRttyReload { rttyRun with txidx := 330, txlen := 331 } = .fault .indexOutsideBuffer :=
  ⟨rfl, rfl, rfl⟩

/-- A running RTTY state whose next event is a tick. -/
def rttyTick : State := { rttyRun with schedule := [.tick .a] }

/-- A running lookup state whose next event is the tick that takes a 0 bit. -/
def lookupTick : State := { lookupRun with abit := 1, schedule := [.tick .a] }

/-- The invariants hold in a running RTTY state ... -/
theorem witness_Inv_rtty : rttyTick.Inv := by constructor <;> decide

/-- ... and in a running lookup state. -/
theorem witness_Inv_lookup : lookupTick.Inv := by constructor <;> decide

/-- A running RTTY state whose next tick completes, with the host silent. -/
def rttyLast : State := { rttyRun with rstate := .reload, rbitcnt := 0 }

/-- An infinite run with a transmission under way, from a state with the invariants. -/
theorem witness_SilentHostStep_ends :
    ∃ r : Nat → State, IsRun r ∧ (r 0).Inv ∧ (r 0).scheduleKind = .finite ∧ (r 0).taArmed = true := by
  refine ⟨fun n => match n with
    | 0 => rttyLast
    | _ => { rttyLast.rttyComplete with choiceCount := rttyLast.choiceCount + 1 }, ?_, by constructor <;> decide, rfl, rfl⟩
  intro n
  match n with
  | 0 => exact step_of_event (s := rttyLast) (e := .tick .a) (by exact test_wf_example) rfl rfl
  | n + 1 =>
    show step _ = _
    unfold step State.fetch
    rw [if_pos (by exact test_wf_example)]
    rfl

/-- An infinite run in which both timers stay armed for ever (no run from reset has it: R44). -/
theorem witness_SilentHostStep_fair :
    ∃ r : Nat → State, IsRun r ∧ ∀ v m, (r m).armed v = true := by
  refine ⟨fun n => { lookupRun with mode := .unused, choiceCount := n }, ?_, fun v _ => by cases v <;> rfl⟩
  intro n
  let s : State := { lookupRun with mode := .unused, choiceCount := n }
  show step s = _
  by_cases hg : agentAt n = .timer .b
  · exact step_of_event (s := s) (by exact test_wf_example) (nextEvent_of_turn (v := .b) rfl rfl hg) rfl
  · refine step_of_event (s := s) (e := .tick .a) (by exact test_wf_example) ?_ rfl
    show some (Event.tick (if agentAt n = .timer .b then .b else .a)) = _
    rw [if_neg hg]

/-- A run under an infinite schedule: one tick, which completes, and then NOP for ever. The run is fair and starts
with the invariants and a transmission under way. -/
theorem witness_SilentHostStep_fed :
    ∃ r : Nat → State, FedRun r ∧ FairRun r ∧ (r 0).Inv ∧ (r 0).taArmed = true
      ∧ ∀ m, 0 ≤ m → (r m).nextLeavesTransmission := by
  let first : State := { rttyLast with schedule := [.tick .a] }
  let after : State := { rttyLast.rttyComplete with schedule := [.command 0] }
  refine ⟨fun n => if n = 0 then first else after, ?_, ?_, by constructor <;> decide, rfl, ?_⟩
  · intro n
    match n with
    | 0 =>
      exact ⟨rttyLast.rttyComplete, [.command 0],
        step_of_event (s := first) (e := .tick .a) (by exact test_wf_example) rfl rfl, rfl⟩
    | n + 1 =>
      exact ⟨rttyLast.rttyComplete, [.command 0],
        step_of_event (s := after) (e := .command 0) (i := .nop) (by exact test_wf_example) rfl rfl, rfl⟩
  · intro v n h
    have := h (n + 1) (by omega)
    cases v <;> cases this
  · intro m _ w i hw hd
    match m with
    | 0 => cases hw
    | m + 1 =>
      cases hw
      cases hd
      trivial

/-- A state of an infinite schedule beyond its listed events. -/
theorem witness_SilentHostStep_infinite :
    let s : State := { rttyRun with scheduleKind := .infinite }
    s.schedule = [] ∧ s.scheduleKind = .infinite := ⟨rfl, rfl⟩

theorem witness_EveryStepKeepsTheInvariants :
    (rttyTick.Inv ∧ ∃ t, step rttyTick = .next t) ∧ lookupTick.Inv ∧ ∃ t, step lookupTick = .next t :=
  ⟨⟨witness_Inv_rtty, _, rfl⟩, witness_Inv_lookup, _, rfl⟩

theorem witness_EveryStepKeepsTheBuffersCanonical :
    let s : State := { gfskRun with schedule := [.command 0x30149055] }
    s.buffersOk = true ∧ ∃ t, step s = .next t :=
  ⟨by decide, _, rfl⟩

theorem witness_EveryStepKeepsTheExtents :
    let s : State := { gfskRun with schedule := [.command 0x20000001] }
    s.extentsOk = true ∧ ∃ t, step s = .next t :=
  ⟨by decide, _, rfl⟩

theorem witness_NoStepReadsOutsideABuffer : rttyTick.Inv ∧ lookupTick.Inv :=
  ⟨witness_Inv_rtty, witness_Inv_lookup⟩

theorem witness_EveryStepKeepsTheTonesStep :
    lookupTick.Inv ∧ lookupTick.stepFollowsTone ∧ ∃ t, step lookupTick = .next t :=
  ⟨witness_Inv_lookup, fun _ => by decide, _, rfl⟩

theorem witness_ConfigurationFixedAndHistoriesGrow :
    ∃ t, step { lookupRun with schedule := [.tick .b] } = .next t := ⟨_, rfl⟩

theorem witness_TicksLeaveMainContextFields :
    isCommand .tickbLookup = false ∧ ∃ t, exec .tickbLookup { lookupRun with draws := [false] } = .next t :=
  ⟨rfl, _, rfl⟩

theorem witness_BuffersChangeOnlyByTheirWrites :
    (∀ idx v, Instr.startRtty 1 ≠ .wrTxbuf idx v) ∧ (∀ idx v, Instr.startRtty 1 ≠ .wrApbuf idx v)
      ∧ ∃ t, exec (.startRtty 1) rttyRun = .next t :=
  ⟨fun _ _ => Instr.noConfusion, fun _ _ => Instr.noConfusion, _, rfl⟩

theorem witness_OnlyThePolledCommandEmits :
    isCommand (.startRtty 1) = true ∧ (∀ n, Instr.startRtty 1 ≠ .txRttyPolled n)
      ∧ ∃ t, exec (.startRtty 1) rttyRun = .next t :=
  ⟨rfl, fun _ => Instr.noConfusion, _, rfl⟩

theorem witness_ModeChangesOnlyByTheListedCommands :
    after (exec .abort gfskRun) (fun t => t.mode ≠ gfskRun.mode) = true
      ∧ after (exec (.setMode .lookup) idle) (fun t => t.mode ≠ idle.mode) = true := by decide

/-- Each of the three STARTs arms a timer. -/
theorem witness_StartInstallsOneEngine :
    after (exec (.startRtty 1) idle) (fun t => t.anyArmed) = true
      ∧ after (exec (.startAprsGfsk 1 3) rttyRun) (fun t => t.anyArmed) = true
      ∧ after (exec (.startAprsLookup 1 2) gfskRun) (fun t => t.anyArmed) = true := by decide

/-- Its last clause: two ticks, one of each timer, come through between a START and the next host command. -/
theorem witness_StartInstallsOneEngine_ticks :
    ∃ t u, exec (.startAprsLookup 1 2) { lookupRun with schedule := [.tick .b, .tick .a, .command 0] } = .next t
      ∧ t.anyArmed = true ∧ (∀ w, Event.command w ∉ t.schedule.take 2) ∧ 2 ≤ t.schedule.length
      ∧ Host.Core.run Sys2Proof.core 2 t = .next u :=
  ⟨_, _, rfl, rfl, fun _ h => by simp [lookupRun, State.armB] at h, by decide, rfl⟩

/-- A clock of 0 is refused, and the edge 14 to 15 of spec/95 section 2.1 is on the domain's side. -/
theorem witness_DeviationCodeIsTheExactFloor :
    devCode 15 0 8 = none ∧ (30000000 : Nat) ≠ 0 ∧ devCode 14 30000000 8 = some 0
      ∧ devCode 15 30000000 8 = some 1 ∧ 14 ≤ 15 := by decide

end Sys2Proof.Tests
end

/-! The two histories, RADIO_TRACE (R41) and the values RDREG returned (R214), only grow: each is
the beginning of what it becomes, over every operation and so over every step. -/

namespace Sys2Proof.Machine

/-- Both histories of `s` are the beginnings of those of `t`. -/
def HistoriesGrow (s t : State) : Prop :=
  s.radioTrace <+: t.radioTrace ∧ s.rdregValues <+: t.rdregValues

namespace HistoriesGrow

variable {s t u : State}

theorem of_eq (ht : t.radioTrace = s.radioTrace) (hv : t.rdregValues = s.rdregValues) : HistoriesGrow s t :=
  ⟨ht ▸ List.prefix_rfl, hv ▸ List.prefix_rfl⟩

theorem refl (s : State) : HistoriesGrow s s := of_eq rfl rfl

theorem trans (h : HistoriesGrow s t) (h' : HistoriesGrow t u) : HistoriesGrow s u :=
  ⟨h.1.trans h'.1, h.2.trans h'.2⟩

end HistoriesGrow

/-! ### The operations that emit -/

/-- An emission appends its event, or nothing when the radio was not ready (R125). -/
theorem State.emit_historiesGrow (s : State) (hz : Hz) : HistoriesGrow s (s.emit hz) := by
  refine ⟨?_, List.prefix_rfl⟩
  rw [State.emit_radioTrace]
  split
  · exact List.prefix_append _ _
  · exact List.prefix_rfl

theorem State.charStarted_historiesGrow (s : State) (b : Byte) : HistoriesGrow s (s.charStarted b) :=
  s.emit_historiesGrow s.cfg.fRttySpace

theorem State.rttyByte_historiesGrow (s : State) : HistoriesGrow s s.rttyByte :=
  (s.emit_historiesGrow _).trans (.of_eq s.rttyByte_radioTrace (by simp))

/-- STOPBIT emits on the first stop tick of a character only (R157). -/
theorem State.rttyStop_historiesGrow (s : State) : HistoriesGrow s s.rttyStop := by
  have ht := s.rttyStop_radioTrace
  split at ht
  · exact (s.emit_historiesGrow _).trans (.of_eq ht (by simp))
  · exact .of_eq ht (by simp)

/-- Every pass of the polled loop grows the histories, and so does the loop. -/
theorem polled_historiesGrow {n : Index} {s t : State}
    (hp : pollLoop (rttyPasses s.cfg n) (s.polledStart n) = .next t) : HistoriesGrow s t :=
  (polled_induction (HistoriesGrow s) hp
    (start := .of_eq (by simp) (by simp))
    (pause := fun _ hu _ => hu.trans (.of_eq (by simp) (by simp)))
    (byte := fun u hu _ => hu.trans u.rttyByte_historiesGrow)
    (stop := fun u hu _ => hu.trans u.rttyStop_historiesGrow)
    (char := fun u b hu _ _ _ => hu.trans (u.charStarted_historiesGrow b))
    (complete := fun _ hu _ _ => hu.trans (.of_eq rfl rfl))).1

/-! ### Every operation and every step -/

/-- RDREG appends to the values returned, the emitting operations to the trace, and the others write neither. -/
theorem exec_historiesGrow {i : Instr} {s t : State} (h : exec i s = .next t) : HistoriesGrow s t := by
  cases ran_of_exec h with
  | rdreg n => exact ⟨List.prefix_rfl, List.prefix_append _ _⟩
  | polled n t _ _ hp => exact polled_historiesGrow hp
  | startbitChar b | reloadChar b => exact s.charStarted_historiesGrow b
  | byte => exact s.rttyByte_historiesGrow
  | stopbit => exact s.rttyStop_historiesGrow
  | gfskBit b =>
    exact .trans (t := s.advanceBit.setTone (nrziTone s.atone b)) (.of_eq (by simp) (by simp))
      (State.emit_historiesGrow _ _)
  | sample hz => exact s.emit_historiesGrow hz
  | _ => exact .of_eq (by simp) (by simp)

theorem step_historiesGrow {s t : State} (h : step s = .next t) : HistoriesGrow s t := by
  rcases step_next_cases h with ⟨rfl, -⟩ | ⟨e, i, -, -, -, he⟩
  · exact .refl t
  · exact .trans (.of_eq (by simp) (by simp)) (exec_historiesGrow he)

/-- No step changes the configuration (R9). -/
theorem step_cfg {s t : State} (h : step s = .next t) : t.cfg = s.cfg := by
  rcases step_next_cases h with ⟨rfl, -⟩ | ⟨e, i, -, -, -, he⟩
  · rfl
  · rw [(exec_sameHost he).1, State.consumeEvent_cfg]

/-- Settles O52: a step is idle or one operation, no operation touches the configuration, and each appends to
the histories or leaves them. -/
theorem configurationFixedAndHistoriesGrow : Obligations.ConfigurationFixedAndHistoriesGrow := by
  intro s t h
  obtain ⟨⟨new, hnew⟩, ⟨vals, hvals⟩⟩ := step_historiesGrow h
  exact ⟨step_cfg h, ⟨new, hnew.symm⟩, ⟨vals, hvals.symm⟩⟩

end Sys2Proof.Machine

namespace Sys2Proof.Machine

/-! ### RDREG (R45, R64, R214) -/

/-- Numbers 19 to 255 read as 0 (R64). -/
theorem State.reg_unnumbered (s : State) {n : BitVec 8} (h : 19 ≤ n.toNat) : s.reg n = 0 := by
  unfold State.reg
  split
  case h_20 => rfl
  all_goals omega

theorem toneBit_toNat (t : Tone) : (toneBit t).toNat = if t = .t1200 then 0 else 1 := by cases t <;> rfl

/-- Settles O23: each of the nineteen arms of `State.reg` widens one register, and the rest read 0. -/
theorem readRegisterReturnsTheNumberedRegister : Obligations.ReadRegisterReturnsTheNumberedRegister := by
  intro n s
  have hz {k : Nat} (hk : k ≤ 32) (v : BitVec k) : (v.setWidth 32).toNat = v.toNat := toNat_zext hk v
  refine ⟨_, s.reg n, rfl, rfl, ?_, ?_, ?_, ?_, ?_, ?_, ?_, ?_, ?_, ?_, ?_, ?_, ?_, ?_, ?_, ?_, ?_, ?_, ?_,
    s.reg_unnumbered, ?frame⟩
  case frame =>
    simp [sameTimers, sameErrors, sameFlags, sameRtty, sameDescriptors, sameAprs, sameBuffers, sameHost, sameDraws]
  all_goals rintro rfl
  exacts [rfl, (hz (by decide) _).trans s.tctrl_toNat, rfl, rfl, (hz (by decide) _).trans s.status_toNat,
    (hz (by decide) _).trans s.flags_toNat, rfl, hz (by decide) s.rbitcnt, hz (by decide) s.rcur,
    hz (by decide) s.rpause, hz (by decide) s.txidx, hz (by decide) s.txlen, hz (by decide) s.apFs,
    hz (by decide) s.apFe, hz (by decide) s.aidx, hz (by decide) s.abit,
    (hz (by decide) _).trans (toneBit_toNat s.atone), hz (by decide) s.lcur, hz (by decide) s.lstep]

/-! ### What the reporting fields decide (R24, R42, R231, R236)

The state is seen without a group of the fields that only report. Every operation but RDREG 4 answers the
same, seen so, whether or not those fields were erased before it. -/

/-- The two groups of fields that only report. -/
inductive Report where
  | radio | errors

/-- The state without a group of reporting fields. -/
def State.erase (r : Report) (s : State) : State :=
  match r with
  | .radio => s.eraseRadio
  | .errors => s.eraseErrors

/-- A change of the state that the reporting fields do not steer. -/
def Blind (r : Report) (f : State → State) : Prop := ∀ s, (f (s.erase r)).erase r = (f s).erase r

/-- A meaning that the reporting fields do not steer. -/
def BlindResult (r : Report) (f : State → Result) : Prop :=
  ∀ s, mapNext (State.erase r) (f (s.erase r)) = mapNext (State.erase r) (f s)

section

variable {r : Report}

/-- What computes alike for both groups is shown for each by computation. -/
theorem Blind.of_both {f : State → State} (hr : ∀ s, (f s.eraseRadio).eraseRadio = (f s).eraseRadio)
    (he : ∀ s, (f s.eraseErrors).eraseErrors = (f s).eraseErrors) : Blind r f := by
  cases r
  · exact hr
  · exact he

theorem BlindResult.of_both {f : State → Result}
    (hr : ∀ s, mapNext State.eraseRadio (f s.eraseRadio) = mapNext State.eraseRadio (f s))
    (he : ∀ s, mapNext State.eraseErrors (f s.eraseErrors) = mapNext State.eraseErrors (f s)) :
    BlindResult r f := by
  cases r
  · exact hr
  · exact he

theorem Blind.comp {f g : State → State} (hg : Blind r g) (hf : Blind r f) : Blind r (fun s => g (f s)) :=
  fun s => by rw [← hg, hf, hg]

theorem Blind.next {f : State → State} (hf : Blind r f) : BlindResult r (fun s => .next (f s)) :=
  fun s => congrArg Host.Outcome.next (hf s)

/-- Two states that differ in reporting fields alone have outcomes that do. -/
theorem BlindResult.congr {f : State → Result} (hf : BlindResult r f) {s t : State}
    (h : s.erase r = t.erase r) : mapNext (State.erase r) (f s) = mapNext (State.erase r) (f t) := by
  rw [← hf s, h, hf t]

/-- A test that reads no reporting field, between two branches that are not steered. -/
theorem BlindResult.ite {p : State → Prop} [DecidablePred p] {f g : State → Result}
    (hp : ∀ s, p (s.erase r) ↔ p s) (hf : BlindResult r f) (hg : BlindResult r g) :
    BlindResult r (fun s => if p s then f s else g s) := by
  intro s
  by_cases h : p s
  · simpa only [if_pos h, if_pos ((hp s).mpr h)] using hf s
  · simpa only [if_neg h, if_neg (mt (hp s).mp h)] using hg s

theorem BlindResult.comp {f : State → Result} {g : State → State} (hf : BlindResult r f) (hg : Blind r g) :
    BlindResult r (fun s => f (g s)) :=
  fun s => hf.congr (hg s)

/-! The fields an operation tests are not erased. -/

theorem State.erase_anyArmed (s : State) : (s.erase r).anyArmed = s.anyArmed := by cases r <;> rfl
theorem State.erase_cfg (s : State) : (s.erase r).cfg = s.cfg := by cases r <;> rfl
theorem State.erase_rstate (s : State) : (s.erase r).rstate = s.rstate := by cases r <;> rfl
theorem State.erase_rbitcnt (s : State) : (s.erase r).rbitcnt = s.rbitcnt := by cases r <;> rfl
theorem State.erase_rpause (s : State) : (s.erase r).rpause = s.rpause := by cases r <;> rfl
theorem State.erase_txidx (s : State) : (s.erase r).txidx = s.txidx := by cases r <;> rfl
theorem State.erase_txlen (s : State) : (s.erase r).txlen = s.txlen := by cases r <;> rfl
theorem State.erase_apFe (s : State) : (s.erase r).apFe = s.apFe := by cases r <;> rfl
theorem State.erase_aidx (s : State) : (s.erase r).aidx = s.aidx := by cases r <;> rfl
theorem State.erase_abit (s : State) : (s.erase r).abit = s.abit := by cases r <;> rfl
theorem State.erase_atone (s : State) : (s.erase r).atone = s.atone := by cases r <;> rfl
theorem State.erase_lcur (s : State) : (s.erase r).lcur = s.lcur := by cases r <;> rfl
theorem State.erase_txReady (s : State) : (s.erase r).txReady = s.txReady := by cases r <;> rfl
theorem State.erase_apReady (s : State) : (s.erase r).apReady = s.apReady := by cases r <;> rfl
theorem State.erase_loadChar (s : State) : (s.erase r).loadChar = s.loadChar := by cases r <;> rfl
theorem State.erase_fetchByte (s : State) : (s.erase r).fetchByte = s.fetchByte := by cases r <;> rfl

/-! #### The shared operations -/

theorem blind_id : Blind r (fun s => s) := by
  intro s; cases r <;> rfl

theorem raise_blind (k : ErrorKind) : Blind r (State.raise · k) := by
  intro s; cases r <;> cases k <;> rfl

theorem emit_blind (hz : Hz) : Blind r (State.emit · hz) := by
  intro s; cases r <;> rfl

theorem stopPrevious_blind : Blind r State.stopPrevious := by
  intro s
  unfold State.stopPrevious
  rw [s.erase_anyArmed]
  cases s.anyArmed <;> cases r <;> rfl

theorem advanceBit_blind : Blind r State.advanceBit := by
  intro s
  unfold State.advanceBit
  rw [s.erase_abit]
  split <;> cases r <;> rfl

theorem setTone_blind (t : Tone) : Blind r (State.setTone · t) := by
  intro s; cases r <;> rfl

theorem toneTransition_blind : Blind r State.toneTransition := by
  intro s; cases r <;> rfl

theorem charStarted_blind (b : Byte) : Blind r (State.charStarted · b) := by
  intro s; cases r <;> rfl

theorem rttyComplete_blind : Blind r State.rttyComplete := by
  intro s; cases r <;> rfl

theorem rttyPause_blind : Blind r State.rttyPause := by
  intro s
  unfold State.rttyPause
  rw [s.erase_rpause]
  split <;> cases r <;> rfl

theorem rttyByte_blind : Blind r State.rttyByte := by
  intro s
  unfold State.rttyByte
  rw [s.erase_rbitcnt]
  split <;> cases r <;> rfl

theorem rttyStop_blind : Blind r State.rttyStop := by
  intro s
  unfold State.rttyStop
  rw [s.erase_rbitcnt, s.erase_cfg]
  split <;> split <;> cases r <;> rfl

theorem startChar_blind : BlindResult r State.startChar := by
  intro s
  unfold State.startChar
  rw [s.erase_loadChar]
  cases s.loadChar with
  | ok b => exact (charStarted_blind b).next s
  | error f => rfl

theorem rttyCharOrDone_blind : BlindResult r State.rttyCharOrDone :=
  .ite (fun s => by rw [s.erase_txidx, s.erase_txlen]) startChar_blind rttyComplete_blind.next

theorem rttyPass_blind : BlindResult r State.rttyPass := by
  intro s
  unfold State.rttyPass
  rw [s.erase_rstate]
  cases s.rstate with
  | pause => exact rttyPause_blind.next s
  | startbit | reload => exact rttyCharOrDone_blind s
  | byte => exact rttyByte_blind.next s
  | stopbit => exact rttyStop_blind.next s
  | wait => exact blind_id.next s

/-- What goes on from a next state; a stop stays. -/
def Result.andThen (o : Result) (f : State → Result) : Result :=
  match o with
  | .next t => f t
  | .fault e => .fault e
  | .refused e => .refused e

theorem BlindResult.andThen {f g : State → Result} (hf : BlindResult r f) (hg : BlindResult r g) :
    BlindResult r (fun s => (f s).andThen g) := by
  intro s
  have h := hf s
  revert h
  dsimp only
  generalize f (s.erase r) = o, f s = o'
  cases o <;> cases o' <;> simp only [mapNext, reduceCtorEq, Host.Outcome.next.injEq, Host.Outcome.fault.injEq,
    Host.Outcome.refused.injEq, false_imp_iff]
  · exact fun h => hg.congr h
  · exact congrArg _
  · exact congrArg _

theorem pollLoop_succ (n : Nat) (s : State) :
    pollLoop (n + 1) s = if s.rstate = .wait then .next s else s.rttyPass.andThen (pollLoop n) := by
  rw [pollLoop]
  cases s.rttyPass <;> rfl

/-- No pass of the polled loop is steered, and so the loop is not. -/
theorem pollLoop_blind (n : Nat) : BlindResult r (pollLoop n) := by
  induction n with
  | zero => exact .ite (fun s => by rw [s.erase_rstate]) blind_id.next (fun _ => rfl)
  | succ n ih =>
    rw [funext (pollLoop_succ n)]
    exact .ite (fun s => by rw [s.erase_rstate]) blind_id.next (rttyPass_blind.andThen ih)

/-! #### The STARTs -/

/-- A START: the setup's own answer where it returned, else what arms. -/
def Setup.andThen (u : Setup) (f : State → Result) : Result :=
  match u with
  | .returned t => .next t
  | .proceed t => f t

/-- What an RTTY START does once the previous transmission is stopped (R208). -/
def rttyStart (n : Index) (f : State → Result) (s : State) : Result :=
  if s.cfg.txCap < n.toNat then .next (s.raise .bufferOverrun)
  else if n = 0 then .next { s with mode := .rttyInterrupt, txlen := n }
  else f { State.handOverTx { s with mode := .rttyInterrupt, txlen := n } with
    rpause := s.cfg.rttyPauseTicks, rstate := startState s.cfg.rttyPauseTicks }

/-- What an APRS START does once the previous transmission is stopped (R209). -/
def aprsStart (fs fe : Index) (m : Mode) (f : State → Result) (s : State) : Result :=
  if s.cfg.apCap < fe.toNat then .next (s.raise .bufferOverrun)
  else if fe ≤ fs then .next { s with mode := m, apFs := fs, apFe := fe, aidx := fs }
  else f (State.handOverAp { s with mode := m, apFs := fs, apFe := fe, aidx := fs })

theorem andThen_rttySetup (n : Index) (f : State → Result) (s : State) :
    (s.rttySetup n).andThen f = rttyStart n f s.stopPrevious := by
  simp only [State.rttySetup, rttyStart]
  split
  · rfl
  · split <;> rfl

theorem andThen_aprsSetup (fs fe : Index) (m : Mode) (f : State → Result) (s : State) :
    (s.aprsSetup fs fe m).andThen f = aprsStart fs fe m f s.stopPrevious := by
  simp only [State.aprsSetup, aprsStart]
  split
  · rfl
  · split <;> rfl

theorem rttySetup_blind (n : Index) {f : State → Result} (hf : BlindResult r f) :
    BlindResult r (fun s => (s.rttySetup n).andThen f) := by
  rw [funext (andThen_rttySetup n f)]
  have hstart : BlindResult r (rttyStart n f) :=
    .ite (fun s => by rw [s.erase_cfg]) (raise_blind _).next
      (.ite (fun _ => .rfl) (.of_both (fun _ => rfl) fun _ => rfl)
        (hf.comp (.of_both (fun _ => rfl) fun _ => rfl)))
  exact hstart.comp stopPrevious_blind

theorem aprsSetup_blind (fs fe : Index) (m : Mode) {f : State → Result} (hf : BlindResult r f) :
    BlindResult r (fun s => (s.aprsSetup fs fe m).andThen f) := by
  rw [funext (andThen_aprsSetup fs fe m f)]
  have hstart : BlindResult r (aprsStart fs fe m f) :=
    .ite (fun s => by rw [s.erase_cfg]) (raise_blind _).next
      (.ite (fun _ => .rfl) (.of_both (fun _ => rfl) fun _ => rfl)
        (hf.comp (.of_both (fun _ => rfl) fun _ => rfl)))
  exact hstart.comp stopPrevious_blind

/-! #### Every operation -/

/-- RDREG reads a reporting field at number 4, STATUS, only (R45). -/
theorem State.erase_reg (s : State) {n : BitVec 8} (h : n ≠ 4) : (s.erase r).reg n = s.reg n := by
  by_cases hn : 19 ≤ n.toNat
  · rw [State.reg_unnumbered _ hn, State.reg_unnumbered _ hn]
  · have h4 : n.toNat ≠ 4 := fun e => h (BitVec.eq_of_toNat_eq e)
    unfold State.reg
    generalize n.toNat = k at hn h4
    rcases Nat.lt_or_gt_of_ne h4 with h4 | h4 <;> interval_cases k <;> cases r <;> rfl

theorem rdreg_blind {n : BitVec 8} (h : n ≠ 4) : BlindResult r (exec (.rdreg n)) := by
  intro s
  simp only [exec, execRdreg, s.erase_reg h]
  cases r <;> rfl

/-- TX_RTTY_POLLED's passes are counted by the configuration, which is not erased. -/
theorem txRttyPolled_blind (n : Index) : BlindResult r (exec (.txRttyPolled n)) := by
  intro s
  have h (u : State) : exec (.txRttyPolled n) u = (u.rttySetup n).andThen (pollLoop (rttyPasses u.cfg n)) := rfl
  rw [h, h, s.erase_cfg]
  exact rttySetup_blind n (pollLoop_blind _) s

theorem tickaGfsk_blind : BlindResult r (exec .tickaGfsk) := by
  refine .ite (fun s => by rw [s.erase_apFe, s.erase_aidx]) (.of_both (fun _ => rfl) fun _ => rfl) fun s => ?_
  simp only [State.nextBit, s.erase_fetchByte, s.erase_abit, s.erase_atone, s.erase_cfg]
  cases s.fetchByte with
  | ok v => exact ((emit_blind _).comp ((setTone_blind _).comp advanceBit_blind)).next s
  | error f => rfl

theorem tickaLookup_blind : BlindResult r (exec .tickaLookup) := by
  refine .ite (fun s => by rw [s.erase_apFe, s.erase_aidx]) (.of_both (fun _ => rfl) fun _ => rfl) fun s => ?_
  simp only [State.nextBit, s.erase_fetchByte, s.erase_abit]
  cases s.fetchByte with
  | ok v =>
    dsimp only
    cases v.getLsbD s.abit.toNat
    · exact (toneTransition_blind.comp advanceBit_blind).next s
    · exact advanceBit_blind.next s
  | error f => rfl

theorem tickbLookup_blind : BlindResult r (exec .tickbLookup) := by
  intro s
  simp only [exec, execTickbLookup, s.erase_cfg, s.erase_atone, s.erase_lcur]
  cases lutHz s.cfg s.atone (sample s.lcur) with
  | some hz => cases r <;> rfl
  | none => rfl

/-- No operation but RDREG 4 is steered by the reporting fields. -/
theorem exec_blind {i : Instr} (hi : i ≠ .rdreg 4) : BlindResult r (exec i) := by
  cases i with
  | nop | stopTimers | abort | clrErr | tickaRttyWait | tickaUnused | tickbRtty | tickbGfsk | tickbUnused =>
    exact .of_both (fun _ => rfl) fun _ => rfl
  | setMode m =>
    intro s
    simp only [exec, execSetMode, s.erase_anyArmed]
    split
    · exact (raise_blind _).next s
    · cases r <;> rfl
  | startRtty n => exact rttySetup_blind n (.of_both (fun _ => rfl) fun _ => rfl)
  | txRttyPolled n => exact txRttyPolled_blind n
  | startAprsGfsk fs fe => exact aprsSetup_blind fs fe .gfskSync (.of_both (fun _ => rfl) fun _ => rfl)
  | startAprsLookup fs fe => exact aprsSetup_blind fs fe .lookup (.of_both (fun _ => rfl) fun _ => rfl)
  | wrTxbuf idx v =>
    exact .ite (fun s => by rw [s.erase_cfg]) (raise_blind _).next
      (.ite (fun s => by rw [s.erase_txReady]) (fun _ => rfl) (.of_both (fun _ => rfl) fun _ => rfl))
  | wrApbuf idx v =>
    exact .ite (fun s => by rw [s.erase_cfg]) (raise_blind _).next
      (.ite (fun s => by rw [s.erase_apReady]) (fun _ => rfl) (.of_both (fun _ => rfl) fun _ => rfl))
  | rdreg n => exact rdreg_blind fun e => hi (e ▸ rfl)
  | tickaRttyPause => exact rttyPause_blind.next
  | tickaRttyStartbit | tickaRttyReload => exact rttyCharOrDone_blind
  | tickaRttyByte => exact rttyByte_blind.next
  | tickaRttyStopbit => exact rttyStop_blind.next
  | tickaGfsk => exact tickaGfsk_blind
  | tickaLookup => exact tickaLookup_blind
  | tickbLookup => exact tickbLookup_blind

end

/-- Settles O41: the readiness answers are erased with the trace and ERR_CNR, and steer nothing else. -/
theorem readinessTouchesOnlyTraceAndErrCnr : Obligations.ReadinessTouchesOnlyTraceAndErrCnr :=
  fun _ _ _ hi h => (exec_blind (r := .radio) hi).congr h

/-- Settles O42, as O41 with the three error bits erased. -/
theorem errorBitsSteerNothing : Obligations.ErrorBitsSteerNothing :=
  fun _ _ _ hi h => (exec_blind (r := .errors) hi).congr h

/-! ### The invariants of R44

Each operation the state selects keeps them; the polled loop's passes and the timer's ticks share one lemma per
pass. -/

section

variable {s t : State}

/-- An operation the next event can select: a host command, or the entry of an armed timer's tick (R216, R239). -/
def State.Selects (s : State) (i : Instr) : Prop :=
  isCommand i = true ∨ ∃ v, s.armed v = true ∧ i = dispatch v s.mode s.rstate

/-- What selecting an entry says of the state (R97). -/
def State.Knows (s : State) : Instr → Prop
  | .tickaRttyPause => s.taArmed = true ∧ s.mode = .rttyInterrupt ∧ s.rstate = .pause
  | .tickaRttyStartbit => s.taArmed = true ∧ s.mode = .rttyInterrupt ∧ s.rstate = .startbit
  | .tickaRttyByte => s.taArmed = true ∧ s.mode = .rttyInterrupt ∧ s.rstate = .byte
  | .tickaRttyStopbit => s.taArmed = true ∧ s.mode = .rttyInterrupt ∧ s.rstate = .stopbit
  | .tickaRttyReload => s.taArmed = true ∧ s.mode = .rttyInterrupt ∧ s.rstate = .reload
  | .tickaGfsk => s.taArmed = true ∧ s.mode = .gfskSync
  | .tickaLookup => s.taArmed = true ∧ s.mode = .lookup
  | _ => True

theorem State.Selects.knows {i : Instr} (h : s.Selects i) : s.Knows i := by
  rcases h with h | ⟨v, ha, hv⟩
  · cases i <;> trivial
  · obtain ⟨hp, hsb, hb, hst, hre, hg, hl, -⟩ := dispatch_knows ha hv
    cases i with
    | tickaRttyPause => exact hp rfl
    | tickaRttyStartbit => exact hsb rfl
    | tickaRttyByte => exact hb rfl
    | tickaRttyStopbit => exact hst rfl
    | tickaRttyReload => exact hre rfl
    | tickaGfsk => exact hg rfl
    | tickaLookup => exact hl rfl
    | _ => trivial

/-- The operation of an event is one the state it runs in selects. -/
theorem selects_of_operationOf {e : Event} {i : Instr} (h : s.operationOf e = .ok i) :
    s.consumeEvent.Selects i := by
  rcases State.operationOf_cases h with ⟨w, -, hd⟩ | ⟨v, -, ha, rfl⟩
  · exact .inl (decodeCommand_isCommand hd)
  · exact .inr ⟨v, by cases v <;> simpa [State.armed] using ha, by simp⟩

/-- A step idles, or takes an event and runs an operation that the state then selects. -/
theorem step_selects (h : step s = .next t) :
    t = s ∨ ∃ i, s.consumeEvent.Selects i ∧ exec i s.consumeEvent = .next t := by
  rcases step_next_cases h with ⟨rfl, -⟩ | ⟨e, i, -, -, ho, he⟩
  · exact .inl rfl
  · exact .inr ⟨i, selects_of_operationOf ho, he⟩

theorem one_le_stopBitCount (n : StopBits) : 1 ≤ stopBitCount n := by cases n <;> decide

theorem one_le_dataBitCount (n : DataBits) : 1 ≤ dataBitCount n := by cases n <;> decide

/-- A started RTTY machine waits out its pause, or goes to its first start bit. -/
theorem startState_cases (p : BitVec 16) : startState p = .startbit ∨ startState p = .pause := by
  unfold startState; split
  · exact .inl rfl
  · exact .inr rfl

/-- A counter above 1 counts down and stays in its range. -/
theorem counts_down {k : Nat} (hk : 1 < k) {x m : BitVec k} (h : ¬x ≤ 1) (hm : x ≤ m) :
    1 ≤ x - 1 ∧ x - 1 ≤ m := by
  have h1 : 1 < x.toNat := Nat.lt_of_not_le (mt (le_one_iff hk x).mpr h)
  have h2 := sub_one_toNat hk x h1
  have h3 : (1 : BitVec k).toNat = 1 := by simp [BitVec.toNat_ofNat]; omega
  rw [BitVec.le_def] at hm
  constructor <;> rw [BitVec.le_def] <;> omega

/-- An index below a bound counts up without wrapping. -/
theorem index_counts_up {x m : Index} (h : x < m) : x + 1 ≤ m ∧ 1 ≤ x + 1 ∧ x ≤ x + 1 := by
  bv_omega

/-- R44 (f) and (g), by the state of the RTTY machine. -/
def State.CountOk (s : State) : Prop :=
  match s.rstate with
  | .byte => 1 ≤ s.rbitcnt ∧ s.rbitcnt ≤ dataBitCount s.cfg.rttyNbits ∧ 1 ≤ s.txidx
  | .stopbit => 1 ≤ s.rbitcnt ∧ s.rbitcnt ≤ stopBitCount s.cfg.rttyNstop ∧ 1 ≤ s.txidx
  | .reload => s.rbitcnt = 0 ∧ 1 ≤ s.txidx
  | _ => s.rbitcnt = 0

theorem State.countOk_iff (s : State) : s.CountOk ↔
    (s.rstate = .byte → 1 ≤ s.rbitcnt ∧ s.rbitcnt ≤ dataBitCount s.cfg.rttyNbits)
      ∧ (s.rstate = .stopbit → 1 ≤ s.rbitcnt ∧ s.rbitcnt ≤ stopBitCount s.cfg.rttyNstop)
      ∧ (s.rstate ≠ .byte → s.rstate ≠ .stopbit → s.rbitcnt = 0)
      ∧ (s.rstate = .byte ∨ s.rstate = .stopbit ∨ s.rstate = .reload → 1 ≤ s.txidx) := by
  unfold State.CountOk
  cases s.rstate <;> simp [and_assoc]

/-- What the invariants speak of, but for the RTTY machine, is unchanged. -/
@[simp] def sameControl (s t : State) : Prop :=
  t.mode = s.mode ∧ t.taArmed = s.taArmed ∧ t.tbArmed = s.tbArmed
    ∧ (t.txReady = s.txReady ∧ t.txConsumed = s.txConsumed ∧ t.apReady = s.apReady ∧ t.apDone = s.apDone)
    ∧ (t.txlen = s.txlen ∧ t.apFs = s.apFs ∧ t.apFe = s.apFe) ∧ t.aidx = s.aidx ∧ t.cfg = s.cfg

namespace State.Inv

theorem countOk (hi : s.Inv) : s.CountOk :=
  s.countOk_iff.mpr ⟨hi.countByte, hi.countStop, hi.countElse, hi.loaded⟩

/-- A move of the RTTY machine that does not end the transmission. -/
theorem of_sameControl (hi : s.Inv) (h : sameControl s t) (hw : s.rstate ≠ .wait → t.rstate ≠ .wait)
    (hx : s.txidx ≤ s.txlen → t.txidx ≤ s.txlen) (hc : t.CountOk) : t.Inv := by
  obtain ⟨hm, hta, htb, ⟨hr, hd, har, had⟩, ⟨htl, hfs, hfe⟩, hai, hcfg⟩ := h
  obtain ⟨h1, h2, h3, h4⟩ := t.countOk_iff.mp hc
  refine ⟨?_, ?_, ?_, ?_, ?_, ?_, ?_, ?_, h1, h2, h3, h4⟩ <;>
    simp only [State.anyArmed, hm, hta, htb, hr, hd, har, had, htl, hfs, hfe, hai, hcfg]
  case refine_6 =>
    intro ha hm
    obtain ⟨hr, hs, hl, hcap⟩ := hi.runningRtty ha hm
    exact ⟨hr, hw hs, hx hl, hcap⟩
  exacts [hi.txPair, hi.apPair, hi.oneInFlight, hi.armedA, hi.armedB, hi.runningAprs, hi.unusedIdle]

/-- Nothing the invariants speak of is changed. -/
theorem of_same (hi : s.Inv) (h : sameControl s t) (hr : sameRtty s t) : t.Inv := by
  obtain ⟨hs, hn, -, -, hx⟩ := hr
  obtain ⟨-, -, -, -, -, -, hcfg⟩ := id h
  refine hi.of_sameControl h (by rw [hs]; exact id) (by rw [hx]; exact id) ?_
  have hc := hi.countOk
  unfold State.CountOk at hc ⊢
  rwa [hs, hn, hx, hcfg]

theorem consumeEvent (hi : s.Inv) : s.consumeEvent.Inv :=
  hi.of_same (by simp) (by simp [sameRtty])

/-- An idle block with nothing in flight has the invariants. -/
theorem of_idle (ha : t.taArmed = false) (hb : t.tbArmed = false) (hr : t.txReady = false)
    (hc : t.txConsumed = true) (har : t.apReady = false) (had : t.apDone = true) (hw : t.rstate = .wait)
    (hn : t.rbitcnt = 0) : t.Inv := by
  constructor <;> simp [State.anyArmed, *]

/-- Both buffers are given back by every START and by ABORT, whichever was in flight. -/
theorem given_back (hi : s.Inv) : (s.txReady || s.txConsumed) = true ∧ (s.apReady || s.apDone) = true := by
  simp [hi.txPair, hi.apPair]

/-- Timer B runs in lookup mode only. -/
theorem tbArmed_false (hi : s.Inv) (hm : s.mode ≠ .lookup) : s.tbArmed = false :=
  Bool.eq_false_iff.mpr fun hb => hm (hi.armedB hb).1

theorem setMode (hi : s.Inv) (ha : s.anyArmed = false) (m : Mode) : State.Inv { s with mode := m } := by
  obtain ⟨hta, htb⟩ := Bool.or_eq_false_iff.mp ha
  exact ⟨hi.txPair, hi.apPair, hi.oneInFlight, hi.armedA, by simp [htb], by simp [hta], by simp [hta], fun _ => ha,
    hi.countByte, hi.countStop, hi.countElse, hi.loaded⟩

theorem stopTimers (hi : s.Inv) : s.stopTimers.Inv := by
  constructor <;> simp [State.anyArmed]
  exacts [hi.txPair, hi.apPair, by simpa using hi.oneInFlight, hi.countByte, hi.countStop, hi.countElse, hi.loaded]

/-! #### The RTTY machine -/

theorem polledStart (hi : s.Inv) (n : Index) : (s.polledStart n).Inv := by
  rcases startState_cases s.cfg.rttyPauseTicks with h | h <;>
    constructor <;> simp [State.anyArmed, h, hi.apPair]

theorem startRtty (hi : s.Inv) {n : Index} (hn : n.toNat ≤ s.cfg.txCap) (cmp : Word) :
    ((s.polledStart n).armA cmp).Inv := by
  rcases startState_cases s.cfg.rttyPauseTicks with h | h <;>
    constructor <;> simp [State.anyArmed, h, hi.apPair, hn, BitVec.le_def]

theorem rttyPause (hi : s.Inv) (hr : s.rstate = .pause) : s.rttyPause.Inv := by
  have hc := hi.countOk
  simp only [State.CountOk, hr] at hc
  by_cases h : s.rpause ≤ 1
  · have ht : s.rttyPause.rstate = .startbit := by rw [State.rttyPause_rstate, if_pos h]
    exact hi.of_sameControl (by simp) (fun _ => by rw [ht]; decide) (by simp) (by simpa only [State.CountOk, ht, State.rttyPause_rbitcnt] using hc)
  · have ht : s.rttyPause.rstate = .pause := by rw [State.rttyPause_rstate, if_neg h, hr]
    exact hi.of_sameControl (by simp) (fun _ => by rw [ht]; decide) (by simp) (by simpa only [State.CountOk, ht, State.rttyPause_rbitcnt] using hc)

theorem rttyByte (hi : s.Inv) (hr : s.rstate = .byte) : s.rttyByte.Inv := by
  have hc := hi.countOk
  simp only [State.CountOk, hr] at hc
  obtain ⟨-, hle, hx⟩ := hc
  by_cases h : s.rbitcnt ≤ 1
  · have ht : s.rttyByte.rstate = .stopbit := by rw [State.rttyByte_rstate, if_pos h]
    refine hi.of_sameControl (by simp) (fun _ => by rw [ht]; decide) (by simp) ?_
    simp only [State.CountOk, ht, State.rttyByte_rbitcnt, if_pos h, State.rttyByte_cfg, State.rttyByte_txidx]
    exact ⟨one_le_stopBitCount _, BitVec.le_refl _, hx⟩
  · have ht : s.rttyByte.rstate = .byte := by rw [State.rttyByte_rstate, if_neg h, hr]
    refine hi.of_sameControl (by simp) (fun _ => by rw [ht]; decide) (by simp) ?_
    simp only [State.CountOk, ht, State.rttyByte_rbitcnt, if_neg h, State.rttyByte_cfg, State.rttyByte_txidx]
    exact and_assoc.mp ⟨counts_down (by decide) h hle, hx⟩

theorem rttyStop (hi : s.Inv) (hr : s.rstate = .stopbit) : s.rttyStop.Inv := by
  have hc := hi.countOk
  simp only [State.CountOk, hr] at hc
  obtain ⟨-, hle, hx⟩ := hc
  by_cases h : s.rbitcnt ≤ 1
  · have ht : s.rttyStop.rstate = .reload := by rw [State.rttyStop_rstate, if_pos h]
    refine hi.of_sameControl (by simp) (fun _ => by rw [ht]; decide) (by simp) ?_
    simp only [State.CountOk, ht, State.rttyStop_rbitcnt, if_pos h, State.rttyStop_txidx]
    exact ⟨trivial, hx⟩
  · have ht : s.rttyStop.rstate = .stopbit := by rw [State.rttyStop_rstate, if_neg h, hr]
    refine hi.of_sameControl (by simp) (fun _ => by rw [ht]; decide) (by simp) ?_
    simp only [State.CountOk, ht, State.rttyStop_rbitcnt, if_neg h, State.rttyStop_cfg, State.rttyStop_txidx]
    exact and_assoc.mp ⟨counts_down (by decide) h hle, hx⟩

theorem charStarted (hi : s.Inv) (hlt : s.txidx < s.txlen) (b : Byte) : (s.charStarted b).Inv := by
  obtain ⟨hle, h1, -⟩ := index_counts_up hlt
  exact hi.of_sameControl (by simp) (by simp) (fun _ => hle)
    ⟨one_le_dataBitCount _, BitVec.le_refl _, h1⟩

theorem rttyComplete (hi : s.Inv) (hb : s.tbArmed = false) : s.rttyComplete.Inv := by
  constructor <;> simp [State.anyArmed, hb, hi.apPair]

/-- Every pass of the polled loop keeps the invariants, and both timers stopped. -/
theorem polled {n : Index} (hi : s.Inv) (hp : pollLoop (rttyPasses s.cfg n) (s.polledStart n) = .next t) : t.Inv :=
  (polled_induction (fun u => u.Inv ∧ u.tbArmed = false) hp
    (start := ⟨hi.polledStart n, by simp⟩)
    (pause := fun _ ⟨hu, hb⟩ hr => ⟨hu.rttyPause hr, by simpa using hb⟩)
    (byte := fun _ ⟨hu, hb⟩ hr => ⟨hu.rttyByte hr, by simpa using hb⟩)
    (stop := fun _ ⟨hu, hb⟩ hr => ⟨hu.rttyStop hr, by simpa using hb⟩)
    (char := fun _ b ⟨hu, hb⟩ _ hlt _ => ⟨hu.charStarted hlt b, hb⟩)
    (complete := fun _ ⟨hu, hb⟩ _ _ => ⟨hu.rttyComplete hb, hb⟩)).1.1

/-! #### The APRS engines -/

theorem aprsComplete (hi : s.Inv) : s.aprsComplete.Inv := by
  constructor <;> simp [State.anyArmed]
  exacts [hi.txPair, hi.countByte, hi.countStop, hi.countElse, hi.loaded]

/-- Inside its window the cursor stays in it. -/
theorem advanceBit (hi : s.Inv) (hlt : s.aidx < s.apFe) : s.advanceBit.Inv := by
  obtain ⟨hle, -, hup⟩ := index_counts_up hlt
  have hlo : s.aidx ≤ s.advanceBit.aidx := by rw [State.advanceBit_aidx]; split <;> simp only [hup, BitVec.le_refl]
  have hhi : s.advanceBit.aidx ≤ s.apFe := by
    rw [State.advanceBit_aidx]; split
    · exact hle
    · exact BitVec.le_of_lt hlt
  generalize hx : s.advanceBit.aidx = x at hlo hhi
  constructor <;> simp [State.anyArmed, hx, -State.advanceBit_aidx]
  case runningAprs =>
    intro ha hm
    obtain ⟨hr, h1, -, h3⟩ := hi.runningAprs ha hm
    exact ⟨hr, BitVec.le_trans h1 hlo, hhi, h3⟩
  exacts [hi.txPair, hi.apPair, by simpa using hi.oneInFlight, by simpa using hi.armedA, hi.armedB, hi.runningRtty,
    by simpa [State.anyArmed] using hi.unusedIdle, hi.countByte, hi.countStop, hi.countElse, hi.loaded]

end State.Inv

/-- Every selected operation keeps the invariants. -/
theorem exec_inv {i : Instr} (hi : s.Inv) (hsel : s.Selects i) (h : exec i s = .next t) : t.Inv := by
  have hk := hsel.knows
  obtain ⟨htx, hap⟩ := hi.given_back
  cases ran_of_exec h with
  | nop | wait | unusedA | rttyB | gfskB | unusedB => exact hi
  | stopTimers => exact hi.stopTimers
  | abort | startRttyTooLong | startRttyEmpty | polledTooLong | polledEmpty | startGfskTooLong | startGfskEmpty
  | startLookupTooLong | startLookupEmpty => apply State.Inv.of_idle <;> simp [htx, hap]
  | setModeBusy | wrTxbufOver | wrApbufOver | wrTxbuf | wrApbuf | rdreg | clrErr | sample =>
    exact hi.of_same (by simp) (by simp [sameRtty])
  | setMode m ha => exact hi.setMode ha m
  | startRtty n h0 hn => exact hi.startRtty hn _
  | startGfsk fs fe hlt hfe | startLookup fs fe hlt hfe =>
    constructor <;> simp [State.anyArmed, htx, BitVec.le_of_lt hlt, hfe]
  | polled n t h0 hn hp => exact hi.polled hp
  | pause => obtain ⟨-, -, hr⟩ := hk; exact hi.rttyPause hr
  | byte => obtain ⟨-, -, hr⟩ := hk; exact hi.rttyByte hr
  | stopbit => obtain ⟨-, -, hr⟩ := hk; exact hi.rttyStop hr
  | startbitChar b hlt | reloadChar b hlt => exact hi.charStarted hlt b
  | startbitDone | reloadDone =>
    obtain ⟨-, hm, -⟩ := hk
    exact hi.rttyComplete (hi.tbArmed_false (by simp [hm]))
  | gfskDone | lookupDone => exact hi.aprsComplete
  | lookupKeep hlt => exact hi.advanceBit hlt
  | gfskBit b hlt | lookupChange hlt =>
    exact (hi.advanceBit hlt).of_same (by simp) (by simp [sameRtty])

end

/-- Settles O46: a step idles, or runs an operation the state selects. -/
theorem everyStepKeepsTheInvariants : Obligations.EveryStepKeepsTheInvariants := by
  intro s t hi h
  rcases step_selects h with rfl | ⟨i, hsel, he⟩
  · exact hi
  · exact exec_inv hi.consumeEvent hsel he

/-! ### What an operation stops at -/

theorem State.rttyCharOrDone_fault {s : State} {f : Fault} (h : s.rttyCharOrDone = .fault f) :
    s.txidx < s.txlen ∧ s.loadChar = .error f := by
  rcases s.rttyCharOrDone_cases with ⟨-, hc⟩ | ⟨b, -, -, hc⟩ | ⟨g, hlt, hl, hc⟩ <;> rw [hc] at h <;> cases h
  exact ⟨hlt, hl⟩

/-- No pass changes the length of the message or the configuration. -/
theorem State.rttyPass_txlen_cfg {s t : State} (h : s.rttyPass = .next t) : t.txlen = s.txlen ∧ t.cfg = s.cfg := by
  rcases s.rttyPass_cases with ⟨-, he⟩ | ⟨-, he⟩ | ⟨-, he⟩ | ⟨-, he⟩ | ⟨-, he⟩ <;> rw [he] at h
  case inr.inr.inr.inr =>
    rcases s.rttyCharOrDone_cases with ⟨-, hc⟩ | ⟨b, -, -, hc⟩ | ⟨g, -, -, hc⟩ <;> rw [hc] at h <;> cases h <;> simp
  all_goals cases h; simp

/-- A fault of the polled loop is that of a character load inside the message. -/
theorem polled_fault {n : Index} {s : State} {f : Fault} (h : exec (.txRttyPolled n) s = .fault f) :
    ∃ u : State, u.txlen.toNat ≤ u.cfg.txCap ∧ u.txidx < u.txlen ∧ u.loadChar = .error f := by
  rcases s.rttySetup_cases n with ⟨-, he⟩ | ⟨-, -, he⟩ | ⟨hn, h0, -⟩
  · simp [exec, execTxRttyPolled, he] at h
  · simp [exec, execTxRttyPolled, he] at h
  rw [exec_txRttyPolled h0 hn] at h
  have hpass : ∀ u v : State, u.txlen.toNat ≤ u.cfg.txCap → u.rstate ≠ .wait → u.rttyPass = .next v →
      v.txlen.toNat ≤ v.cfg.txCap := by
    intro u v hu _ hp
    obtain ⟨hl, hc⟩ := State.rttyPass_txlen_cfg hp
    rwa [hl, hc]
  rcases pollLoop_total hpass _ _ (by simpa using hn) (s.passesLeft_polledStart n).le with
    ⟨t, ht⟩ | ⟨u, g, hu, -, hp, hg⟩
  · rw [ht] at h; cases h
  rw [hg] at h; cases h
  refine ⟨u, hu, ?_⟩
  rcases u.rttyPass_cases with ⟨-, he⟩ | ⟨-, he⟩ | ⟨-, he⟩ | ⟨-, he⟩ | ⟨-, he⟩ <;> rw [he] at hp
  case inr.inr.inr.inr => exact State.rttyCharOrDone_fault hp
  all_goals cases hp

/-- A fault is a write in flight, or the load of a byte that an engine still has to send. -/
theorem exec_fault_cases {i : Instr} {s : State} {f : Fault} (h : exec i s = .fault f) :
    (f = .handoffViolation ∧ ∃ idx v, i = .wrTxbuf idx v ∨ i = .wrApbuf idx v)
      ∨ ((i = .tickaRttyStartbit ∨ i = .tickaRttyReload) ∧ s.txidx < s.txlen ∧ s.loadChar = .error f)
      ∨ ((i = .tickaGfsk ∨ i = .tickaLookup) ∧ s.aidx < s.apFe ∧ s.nextBit = .error f)
      ∨ (∃ n, i = .txRttyPolled n)
        ∧ ∃ u : State, u.txlen.toNat ≤ u.cfg.txCap ∧ u.txidx < u.txlen ∧ u.loadChar = .error f := by
  cases i
  case startRtty n =>
    rcases s.rttySetup_cases n with ⟨-, he⟩ | ⟨-, -, he⟩ | ⟨-, -, he⟩ <;> simp [exec, execStartRtty, he] at h
  case startAprsGfsk fs fe =>
    rcases s.aprsSetup_cases fs fe .gfskSync with ⟨-, he⟩ | ⟨-, -, he⟩ | ⟨-, -, he⟩ <;>
      simp [exec, execStartAprsGfsk, he] at h
  case startAprsLookup fs fe =>
    rcases s.aprsSetup_cases fs fe .lookup with ⟨-, he⟩ | ⟨-, -, he⟩ | ⟨-, -, he⟩ <;>
      simp [exec, execStartAprsLookup, he] at h
  case txRttyPolled n => exact .inr (.inr (.inr ⟨⟨n, rfl⟩, polled_fault h⟩))
  case wrTxbuf idx v =>
    simp only [exec, execWrTxbuf] at h
    split at h
    · cases h
    · split at h <;> cases h
      exact .inl ⟨rfl, idx, v, .inl rfl⟩
  case wrApbuf idx v =>
    simp only [exec, execWrApbuf] at h
    split at h
    · cases h
    · split at h <;> cases h
      exact .inl ⟨rfl, idx, v, .inr rfl⟩
  case tickaRttyStartbit => exact .inr (.inl ⟨.inl rfl, State.rttyCharOrDone_fault h⟩)
  case tickaRttyReload => exact .inr (.inl ⟨.inr rfl, State.rttyCharOrDone_fault h⟩)
  case tickaGfsk =>
    simp only [exec, execTickaGfsk] at h
    split at h
    · cases h
    · next hlt =>
      split at h
      · cases h
      · next hf => cases h; exact .inr (.inr (.inl ⟨.inl rfl, BitVec.not_le.mp hlt, hf⟩))
  case tickaLookup =>
    simp only [exec, execTickaLookup] at h
    split at h
    · cases h
    · next hlt =>
      split at h
      · cases h
      · next hf => cases h; exact .inr (.inr (.inl ⟨.inr rfl, BitVec.not_le.mp hlt, hf⟩))
  case tickbLookup =>
    simp only [exec, execTickbLookup] at h
    split at h <;> cases h
  all_goals cases h

/-- A byte the RTTY machine still has to send lies inside the capacity, if the whole message does. -/
theorem State.loadChar_inside {s : State} (hlt : s.txidx < s.txlen) (hcap : s.txlen.toNat ≤ s.cfg.txCap) :
    s.loadChar ≠ .error .indexOutsideBuffer := by
  intro h
  have : s.txidx.toNat < s.txlen.toNat := hlt
  rcases s.loadChar_error h with hf | ⟨-, hc⟩
  · cases hf
  · omega

/-- A bit inside the window lies inside the capacity, if the whole window does. -/
theorem State.nextBit_inside {s : State} (hlt : s.aidx < s.apFe) (hcap : s.apFe.toNat ≤ s.cfg.apCap) :
    s.nextBit ≠ .error .indexOutsideBuffer := by
  intro h
  have : s.aidx.toNat < s.apFe.toNat := hlt
  rcases s.nextBit_cases with ⟨v, -, -, hb⟩ | ⟨-, hb⟩ | ⟨hc, -⟩
  · rw [hb] at h; cases h
  · rw [hb] at h; cases h
  · omega

/-- Settles O50: a byte is loaded only where one is left to send, and by R44 (d) that is inside the capacity. -/
theorem noStepReadsOutsideABuffer : Obligations.NoStepReadsOutsideABuffer := by
  intro s hs h
  obtain ⟨e, i, -, -, ho, he⟩ := step_fault_cases h
  have hi := hs.consumeEvent
  have hk := (selects_of_operationOf ho).knows
  rcases exec_fault_cases he with ⟨hf, -⟩ | ⟨hm, hlt, hf⟩ | ⟨hm, hlt, hf⟩ | ⟨-, u, hcap, hlt, hf⟩
  · cases hf
  · have hrun : s.consumeEvent.taArmed = true ∧ s.consumeEvent.mode = .rttyInterrupt := by
      rcases hm with rfl | rfl <;> (obtain ⟨ha, hm, -⟩ := hk; exact ⟨ha, hm⟩)
    obtain ⟨-, -, -, hcap⟩ := hi.runningRtty hrun.1 hrun.2
    exact State.loadChar_inside hlt hcap hf
  · have hrun : s.consumeEvent.taArmed = true
        ∧ (s.consumeEvent.mode = .gfskSync ∨ s.consumeEvent.mode = .lookup) := by
      rcases hm with rfl | rfl
      · exact hk.imp_right .inl
      · exact hk.imp_right .inr
    obtain ⟨-, -, -, hcap⟩ := hi.runningAprs hrun.1 hrun.2
    exact State.nextBit_inside hlt hcap hf
  · exact State.loadChar_inside hlt hcap hf

/-! ### Single fields over every operation -/

/-- The polled loop leaves the length it was given, the window and the buffers, and both timers stopped. -/
theorem polled_frame {n : Index} {s t : State} (hp : pollLoop (rttyPasses s.cfg n) (s.polledStart n) = .next t) :
    t.anyArmed = false ∧ t.txlen = n ∧ t.apFe = s.apFe ∧ t.cfg = s.cfg ∧ t.txbuf = s.txbuf ∧ t.apbuf = s.apbuf := by
  refine (polled_induction (fun u => u.anyArmed = false ∧ u.txlen = n ∧ u.apFe = s.apFe ∧ u.cfg = s.cfg
    ∧ u.txbuf = s.txbuf ∧ u.apbuf = s.apbuf) hp ?_ ?_ ?_ ?_ ?_ ?_).1 <;> simp +contextual [State.anyArmed]

/-- An accepted length or window lies within the capacity, and nothing else writes the extents. -/
theorem exec_extentsOk {i : Instr} {s t : State} (hs : s.extentsOk = true) (h : exec i s = .next t) :
    t.extentsOk = true := by
  obtain ⟨htx, hap⟩ : s.txlen.toNat ≤ s.cfg.txCap ∧ s.apFe.toNat ≤ s.cfg.apCap := by
    simpa [State.extentsOk] using hs
  cases ran_of_exec h with
  | polled n t _ hn hp =>
    obtain ⟨-, hl, hf, hc, -⟩ := polled_frame hp
    simp [State.extentsOk, hl, hf, hc, hn, hap]
  | _ => simp [State.extentsOk, *]

/-- Settles O49: every operation keeps the extents, and taking an event changes none. -/
theorem everyStepKeepsTheExtents : Obligations.EveryStepKeepsTheExtents := by
  intro s t hs h
  rcases step_selects h with rfl | ⟨i, -, he⟩
  · exact hs
  · exact exec_extentsOk (by simpa [State.extentsOk] using hs) he

/-- Settles O54: the two write commands apart, no operation stores into a buffer. -/
theorem buffersChangeOnlyByTheirWrites : Obligations.BuffersChangeOnlyByTheirWrites := by
  intro i s t h
  cases ran_of_exec h with
  | wrTxbuf idx v => exact ⟨fun hn => absurd rfl (hn idx v), fun _ _ => rfl⟩
  | wrApbuf idx v => exact ⟨fun _ _ => rfl, fun hn => absurd rfl (hn idx v)⟩
  | polled n t _ hn hp =>
    obtain ⟨-, -, -, -, htx, hap⟩ := polled_frame hp
    simp [htx, hap]
  | _ => simp

/-- Settles O56: every other operation leaves MODE, and the polled loop ends with both timers stopped. -/
theorem modeChangesOnlyByTheListedCommands : Obligations.ModeChangesOnlyByTheListedCommands := by
  intro i s t h hm
  cases ran_of_exec h with
  | setMode m ha => exact .inl ⟨⟨m, rfl⟩, ha⟩
  | abort => exact .inr (.inl ⟨.inl rfl, rfl⟩)
  | polledTooLong n | polledEmpty n => exact .inr (.inl ⟨.inr ⟨n, rfl⟩, by simp [State.anyArmed]⟩)
  | polled n t _ _ hp => exact .inr (.inl ⟨.inr ⟨n, rfl⟩, (polled_frame hp).1⟩)
  | startRttyTooLong n | startRttyEmpty n | startRtty n => exact .inr (.inr (.inl ⟨n, rfl⟩))
  | startGfskTooLong fs fe | startGfskEmpty fs fe | startGfsk fs fe =>
    exact .inr (.inr (.inr ⟨fs, fe, .inl rfl⟩))
  | startLookupTooLong fs fe | startLookupEmpty fs fe | startLookup fs fe =>
    exact .inr (.inr (.inr ⟨fs, fe, .inr rfl⟩))
  | _ => exact absurd (by simp) hm

/-- Timer B's step follows the tone over every selected operation: GFSK, which changes the tone alone, runs with
timer B stopped. -/
theorem exec_stepFollowsTone {i : Instr} {s t : State} (hi : s.Inv) (hf : s.stepFollowsTone) (hsel : s.Selects i)
    (h : exec i s = .next t) : t.stepFollowsTone := by
  have hk := hsel.knows
  unfold State.stepFollowsTone at hf ⊢
  cases ran_of_exec h with
  | polled n t _ _ hp =>
    have hb := (Bool.or_eq_false_iff.mp (polled_frame hp).1).2
    simp [hb]
  | gfskBit b _ _ =>
    obtain ⟨-, hm⟩ := hk
    have hb := hi.tbArmed_false (by simp [hm])
    simp [hb]
  | _ => simp +contextual [hf]

/-- Settles O51: every selected operation keeps the step with the tone. -/
theorem everyStepKeepsTheTonesStep : Obligations.EveryStepKeepsTheTonesStep := by
  intro s t hs hf h
  rcases step_selects h with rfl | ⟨i, hsel, he⟩
  · exact hf
  · exact exec_stepFollowsTone hs.consumeEvent (by simpa [State.stepFollowsTone] using hf) hsel he

/-! ### Error bits -/

/-- Every error bit set in `s` is set in `t`. -/
def ErrorsStay (s t : State) : Prop :=
  (s.errCnr = true → t.errCnr = true) ∧ (s.errBovr = true → t.errBovr = true) ∧ (s.errMode = true → t.errMode = true)

/-- STOPBIT may emit, and an emission may set ERR_CNR alone (R231). -/
theorem rttyStop_errorsStay {s u : State} (h : ErrorsStay s u) : ErrorsStay s u.rttyStop := by
  obtain ⟨hc, hb, hm⟩ := h
  refine ⟨fun hs => ?_, by simpa using hb, by simpa using hm⟩
  rw [State.rttyStop_errCnr]
  split <;> simp [hc hs]

theorem polled_errorsStay {n : Index} {s t : State}
    (hp : pollLoop (rttyPasses s.cfg n) (s.polledStart n) = .next t) : ErrorsStay s t := by
  refine (polled_induction (ErrorsStay s) hp ?_ ?_ ?_ (fun u hu _ => rttyStop_errorsStay hu) ?_ ?_).1 <;>
    simp +contextual [ErrorsStay]

/-- Settles O43: every other operation leaves the error bits, or sets one. -/
theorem onlyClearErrorsClearsAnErrorBit : Obligations.OnlyClearErrorsClearsAnErrorBit := by
  intro i s t hi h
  change ErrorsStay s t
  cases ran_of_exec h with
  | clrErr k => exact absurd rfl (hi k)
  | polled n t _ _ hp => exact polled_errorsStay hp
  | stopbit => exact rttyStop_errorsStay ⟨id, id, id⟩
  | _ => simp +contextual [ErrorsStay]

/-! ### Reset (R46) -/

/-- Settles O47: the block is idle after reset, with both buffers given back. -/
theorem invariantsHoldAtReset : Obligations.InvariantsHoldAtReset := by
  intro c
  refine ⟨.of_idle rfl rfl rfl rfl rfl rfl rfl rfl, rfl, ?_, ?_⟩
  · simp [State.extentsOk, State.resetWith]
  · simp [State.stepFollowsTone, State.resetWith]

/-- FLAGS after reset: both buffers with the main context (R46). -/
theorem reg_flags_reset (c : Config) : (State.resetWith c).reg 5 = 0xA := by
  have h : (State.resetWith c).flags = 0xA := BitVec.eq_of_toNat_eq (State.flags_toNat _)
  show (State.resetWith c).flags.setWidth 32 = 0xA
  rw [h]; rfl

/-- Settles O58: each value is the one the reset state is written with; a buffer without cells reads nothing. -/
theorem resetValues : Obligations.ResetValues := fun c =>
  ⟨rfl, rfl, rfl, rfl, rfl, rfl, rfl, rfl, rfl, rfl, rfl, rfl, rfl, rfl, rfl, rfl, rfl, rfl, rfl, rfl, rfl, rfl,
    rfl, rfl, rfl, rfl, reg_flags_reset c, rfl, fun _ => ⟨rfl, rfl⟩⟩

end Sys2Proof.Machine

namespace Sys2Proof.Machine

/-! ### Buffers over a step (R60 to R62, R69) -/

/-- A buffer in its canonical form that holds only indices it has. -/
def Memory.canonicalWithin (cap : Nat) (m : Memory) : Prop := m.wf = true ∧ m.within cap = true

theorem State.buffersOk_iff (s : State) :
    s.buffersOk = true ↔ s.txbuf.canonicalWithin s.cfg.txCap ∧ s.apbuf.canonicalWithin s.cfg.apCap := by
  simp only [State.buffersOk, Memory.canonicalWithin, Bool.and_eq_true]
  tauto

/-- A write below the capacity keeps both halves. -/
theorem Memory.canonicalWithin.write {cap : Nat} {m : Memory} (h : m.canonicalWithin cap) {i : Nat} (hi : i < cap)
    (v : Byte) : (m.write i v).canonicalWithin cap :=
  ⟨m.wf_write i v h.1, m.within_write cap i v hi h.2⟩

/-- Only the two write commands store a byte, and each checks the capacity first (R69). -/
theorem exec_buffersOk {i : Instr} {s t : State} (hs : s.buffersOk = true) (h : exec i s = .next t) :
    t.buffersOk = true := by
  rw [State.buffersOk_iff] at hs ⊢
  obtain ⟨htx, hap⟩ := hs
  cases ran_of_exec h with
  | wrTxbuf idx v hi _ => exact ⟨htx.write hi v, hap⟩
  | wrApbuf idx v hi _ => exact ⟨htx, hap.write hi v⟩
  | polled n t _ _ hp =>
    obtain ⟨-, -, -, hc, hbtx, hbap⟩ := polled_frame hp
    rw [hc, hbtx, hbap]
    exact ⟨htx, hap⟩
  | _ => simpa using ⟨htx, hap⟩

/-- Settles O48: every operation keeps the buffers, and taking an event changes neither. -/
theorem everyStepKeepsTheBuffersCanonical : Obligations.EveryStepKeepsTheBuffersCanonical := by
  intro s t hs h
  rcases step_selects h with rfl | ⟨i, -, he⟩
  · exact hs
  · exact exec_buffersOk (by simpa [State.buffersOk] using hs) he

/-! ### Steps of a listed event (R72, R90) -/

theorem State.nextEvent_of_schedule {s : State} {e : Event} {rest : List Event} (h : s.schedule = e :: rest) :
    s.nextEvent = some e := by simp [State.nextEvent, h]

theorem State.consumeEvent_of_schedule {s : State} {e : Event} {rest : List Event} (h : s.schedule = e :: rest) :
    s.consumeEvent = { s with schedule := rest } := by simp [State.consumeEvent, h]

theorem State.operationOf_command (s : State) {w : Word} {i : Instr} (h : decodeCommand w = .ok i) :
    s.operationOf (.command w) = .ok i := by simp [State.operationOf, h]

/-- Settles O6: the command at the head of the schedule is the next event, and its operation is the decoded one. -/
theorem stepRunsScheduledCommand : Obligations.StepRunsScheduledCommand := by
  intro s w rest i hc hs hd
  calc step s = exec i s.consumeEvent :=
        step_of_event hc (State.nextEvent_of_schedule hs) (s.operationOf_command hd)
    _ = exec i { s with schedule := rest } := by rw [State.consumeEvent_of_schedule hs]

/-! ### Buffer writes beyond the capacity (R212, R213) -/

theorem exec_wrTxbuf_over {idx : Index} {s : State} (h : s.cfg.txCap ≤ idx.toNat) (v : Byte) :
    exec (.wrTxbuf idx v) s = .next (s.raise .bufferOverrun) := if_pos h

theorem exec_wrApbuf_over {idx : Index} {s : State} (h : s.cfg.apCap ≤ idx.toNat) (v : Byte) :
    exec (.wrApbuf idx v) s = .next (s.raise .bufferOverrun) := if_pos h

/-- Settles O21: the bounds check comes before the hand-off check, and the raise sets ERR_BOVR alone. -/
theorem writeBeyondCapacityRaisesOverrun : Obligations.WriteBeyondCapacityRaisesOverrun := by
  intro idx v s i hi
  have he : exec i s = .next (s.raise .bufferOverrun) := by
    rcases hi with ⟨rfl, h⟩ | ⟨rfl, h⟩
    · exact exec_wrTxbuf_over h v
    · exact exec_wrApbuf_over h v
  refine ⟨_, he, ?_⟩
  simp [sameTimers, sameFlags, sameRtty, sameDescriptors, sameAprs, sameData, sameBuffers, sameOutputs, sameHost,
    sameDraws]

end Sys2Proof.Machine

namespace Sys2Proof.Machine

/-! ### Command words by their fields (R91, R92) -/

/-- The opcodes of R92. -/
def assignedOpcodes : List (BitVec 8) :=
  [0x00, 0x01, 0x02, 0x03, 0x10, 0x11, 0x20, 0x21, 0x30, 0x31, 0x40, 0x41]

theorem mem_assignedOpcodes {op : BitVec 8} : op ∈ assignedOpcodes ↔
    op = 0x00 ∨ op = 0x01 ∨ op = 0x02 ∨ op = 0x03 ∨ op = 0x10 ∨ op = 0x11 ∨ op = 0x20 ∨ op = 0x21
      ∨ op = 0x30 ∨ op = 0x31 ∨ op = 0x40 ∨ op = 0x41 := by
  simp [assignedOpcodes]

theorem decodeFields_unassigned {op : BitVec 8} (h : op ∉ assignedOpcodes) (a b : Index) :
    decodeFields op a b = .error .unassignedOpcode := by
  simp_all [mem_assignedOpcodes, decodeFields]

@[simp] theorem decode_commandWord (op : BitVec 8) (a b : Index) :
    decode (.command (commandWord op a b)) = decodeFields op a b := decodeCommand_commandWord op a b

theorem ite_ok_error_eq_ok_iff {p : Prop} [Decidable p] {i j : Instr} {e : DecodeError} :
    (if p then .ok i else .error e : Except DecodeError Instr) = .ok j ↔ p ∧ i = j := by
  split <;> simp [*]

theorem exists_ite_ok_error_eq_error_iff {p : Prop} [Decidable p] {i : Instr} {e : DecodeError} :
    (∃ e', (if p then .ok i else .error e : Except DecodeError Instr) = .error e') ↔ ¬p := by
  split <;> simp [*]

/-! #### Encoded, then decoded -/

/-- No bit of a widened operand is one its row requires to be zero (R92). -/
@[simp] theorem byte_setWidth_and_high (v : Byte) : v.setWidth 12 &&& 0xF00#12 = 0#12 :=
  setWidth_and_eq_zero v _ (by decide)

@[simp] theorem errMask_setWidth_and_high (k : BitVec 3) : k.setWidth 12 &&& 0xFF8#12 = 0#12 :=
  setWidth_and_eq_zero k _ (by decide)

@[simp] theorem mode_setWidth_and_high (m : Mode) : m.toBits.setWidth 12 &&& 0xFFC#12 = 0#12 :=
  setWidth_and_eq_zero m.toBits _ (by decide)

/-- Settles O2: the fields an operation is encoded in select its row, and the operands are read back from them,
the narrow ones from a field with no forbidden bit set; the words and keys without operands are computed. -/
theorem decodeOfEncodeIsIdentity : Obligations.DecodeOfEncodeIsIdentity := by
  intro i
  cases i
  case startRtty | txRttyPolled | startAprsGfsk | startAprsLookup => simp [encode, decodeFields]
  case setMode | wrTxbuf | wrApbuf | rdreg | clrErr => simp [encode, decodeFields, extractLsb'_setWidth]
  all_goals rfl

/-! #### Decoded, then encoded -/

/-- What the fields decode to is encoded as those fields: the bits a row drops are those it requires to be zero. -/
theorem encode_of_decodeFields_eq_ok {op : BitVec 8} {a b : Index} {i : Instr} (h : decodeFields op a b = .ok i) :
    encode i = .command (commandWord op a b) := by
  have low8 : b &&& 0xF00#12 = 0#12 → (b.extractLsb' 0 8).setWidth 12 = b := setWidth_extractLsb' b _ (by decide)
  have low3 : b &&& 0xFF8#12 = 0#12 → (b.extractLsb' 0 3).setWidth 12 = b := setWidth_extractLsb' b _ (by decide)
  have low2 : b &&& 0xFFC#12 = 0#12 → (b.extractLsb' 0 2).setWidth 12 = b := setWidth_extractLsb' b _ (by decide)
  by_cases hop : op ∈ assignedOpcodes
  · rcases mem_assignedOpcodes.mp hop with
        rfl | rfl | rfl | rfl | rfl | rfl | rfl | rfl | rfl | rfl | rfl | rfl <;>
      simp [decodeFields, ite_ok_error_eq_ok_iff] at h
    · obtain ⟨⟨rfl, rfl⟩, rfl⟩ := h; rfl
    · obtain ⟨⟨rfl, rfl⟩, rfl⟩ := h; rfl
    · obtain ⟨⟨rfl, hb⟩, rfl⟩ := h; simp [encode, low2 hb]
    · obtain ⟨⟨rfl, rfl⟩, rfl⟩ := h; rfl
    · obtain ⟨rfl, rfl⟩ := h; rfl
    · obtain ⟨rfl, rfl⟩ := h; rfl
    · subst h; rfl
    · subst h; rfl
    · obtain ⟨hb, rfl⟩ := h; simp [encode, low8 hb]
    · obtain ⟨hb, rfl⟩ := h; simp [encode, low8 hb]
    · obtain ⟨⟨rfl, hb⟩, rfl⟩ := h; simp [encode, low8 hb]
    · obtain ⟨⟨rfl, hb⟩, rfl⟩ := h; simp [encode, low3 hb]
  · rw [decodeFields_unassigned hop] at h; cases h

/-- Settles O3: a word is its three fields, and what they decode to is encoded as them. -/
theorem acceptedWordIsItsEncoding : Obligations.AcceptedWordIsItsEncoding := by
  intro w i h
  rw [← commandWord_fields w, decodeCommand_commandWord] at h
  rw [encode_of_decodeFields_eq_ok h, commandWord_fields]

/-! ### The rows of the opcode map (R92, R93) -/

theorem matchesWord_eq_true_iff {r : CommandRow} {w : Word} :
    r.matchesWord w = true ↔ w &&& r.mask = r.pattern := beq_iff_eq

/-- Every row's mask covers the opcode field, so a word of the row has the row's opcode. -/
theorem opField_of_mem_row {r : CommandRow} (hr : r ∈ commandRows) {w : Word} (h : w &&& r.mask = r.pattern) :
    opField w = opField r.pattern := by
  have hmask : ∀ r ∈ commandRows, opField r.mask = BitVec.allOnes 8 := by
    simp only [commandRows, List.forall_mem_cons]
    decide
  have hand : opField (w &&& r.mask) = opField w &&& opField r.mask := BitVec.extractLsb'_and
  rw [← h, hand, hmask r hr, BitVec.and_allOnes]

/-- No two rows have one opcode. -/
theorem row_eq_of_opField_eq {r q : CommandRow} (hr : r ∈ commandRows) (hq : q ∈ commandRows)
    (h : opField r.pattern = opField q.pattern) : r = q :=
  List.inj_on_of_nodup_map (f := fun r : CommandRow => opField r.pattern) (by decide) hr hq h

theorem row_unique {r q : CommandRow} (hr : r ∈ commandRows) (hq : q ∈ commandRows) {w : Word}
    (hrw : w &&& r.mask = r.pattern) (hqw : w &&& q.mask = q.pattern) : r = q :=
  row_eq_of_opField_eq hr hq ((opField_of_mem_row hr hrw).symm.trans (opField_of_mem_row hq hqw))

/-- A word is accepted as the command of a row it matches, and no other way. -/
theorem decodeCommand_eq_ok_iff {w : Word} {i : Instr} :
    decodeCommand w = .ok i ↔ ∃ r ∈ commandRows, w &&& r.mask = r.pattern ∧ i = r.build w := by
  cases hf : commandRows.find? fun r => r.matchesWord w with
  | none =>
    simp only [decodeCommand, hf, reduceCtorEq, false_iff]
    rintro ⟨r, hr, hrw, -⟩
    exact List.find?_eq_none.mp hf r hr (matchesWord_eq_true_iff.mpr hrw)
  | some q =>
    have hq := List.mem_of_find?_eq_some hf
    have hqw := matchesWord_eq_true_iff.mp (List.find?_some (p := (CommandRow.matchesWord · w)) hf)
    simp only [decodeCommand, hf, Except.ok.injEq]
    constructor
    · rintro rfl
      exact ⟨q, hq, hqw, rfl⟩
    · rintro ⟨r, hr, hrw, rfl⟩
      rw [row_unique hr hq hrw hqw]

/-- Settles O4: every mask covers the opcode and the rows' opcodes differ, so the row a word matches is the one the
decoder finds; for a word of no row it finds none. -/
theorem commandRowsDecideDisjointly : Obligations.CommandRowsDecideDisjointly := by
  intro w
  refine ⟨fun r hr hrw => decodeCommand_eq_ok_iff.mpr ⟨r, hr, hrw, rfl⟩,
    fun r hr q hq => row_unique hr hq, fun hno => ?_⟩
  cases hd : decodeCommand w with
  | error e => exact ⟨e, rfl⟩
  | ok i =>
    obtain ⟨r, hr, hrw, -⟩ := decodeCommand_eq_ok_iff.mp hd
    exact absurd hrw (hno r hr)

/-! ### Reserved words (R95) -/

/-- The bits from position `k` up are zero in the numbers below `2 ^ k`. -/
theorem and_highMask_eq_zero_iff {k : Nat} {b m : Index} (hm : ∀ i, i < 12 → m.getLsbD i = decide (k ≤ i)) :
    b &&& m = 0 ↔ b.toNat < 2 ^ k := by
  constructor
  · intro h
    calc b.toNat = ((b.extractLsb' 0 k).setWidth 12).toNat := by rw [setWidth_extractLsb' b m hm h]
      _ ≤ (b.extractLsb' 0 k).toNat := by rw [BitVec.toNat_setWidth]; exact Nat.mod_le _ _
      _ < 2 ^ k := BitVec.isLt _
  · intro h
    apply BitVec.eq_of_getLsbD_eq
    intro i hi
    simp only [BitVec.getLsbD_and, hm i hi]
    by_cases hk : k ≤ i
    · have hbit : b.toNat.testBit i = false :=
        Nat.testBit_lt_two_pow (h.trans_le (Nat.pow_le_pow_right (by decide) hk))
      simp [BitVec.getLsbD, hbit]
    · simp [hk]

/-- The fields refused are those of R95, with the two operand fields read as one number: for an assigned opcode
both sides bound the numbers of the operand fields, and an unassigned one is reserved at every operand. -/
theorem decodeFields_error_iff (op : BitVec 8) (a b : Index) :
    (∃ e, decodeFields op a b = .error e) ↔ reservedFields op.toNat (a.toNat * 4096 + b.toNat) := by
  have high2 : b &&& 0xFFC#12 = 0#12 ↔ b.toNat < 4 := and_highMask_eq_zero_iff (k := 2) (by decide)
  have high3 : b &&& 0xFF8#12 = 0#12 ↔ b.toNat < 8 := and_highMask_eq_zero_iff (k := 3) (by decide)
  have high8 : b &&& 0xF00#12 = 0#12 ↔ b.toNat < 256 := and_highMask_eq_zero_iff (k := 8) (by decide)
  have zeroA : a = 0#12 ↔ a.toNat = 0 := BitVec.toNat_inj.symm
  have zeroB : b = 0#12 ↔ b.toNat = 0 := BitVec.toNat_inj.symm
  have hb : b.toNat < 4096 := b.isLt
  by_cases hop : op ∈ assignedOpcodes
  · rcases mem_assignedOpcodes.mp hop with
        rfl | rfl | rfl | rfl | rfl | rfl | rfl | rfl | rfl | rfl | rfl | rfl <;>
      simp [decodeFields, reservedFields, exists_ite_ok_error_eq_error_iff, high2, high3, high8, zeroA, zeroB] <;>
      omega
  · have hnum : op.toNat ∉ assignedOpcodes.map BitVec.toNat := fun h => by
      obtain ⟨q, hq, hqop⟩ := List.mem_map.mp h
      exact hop (BitVec.eq_of_toNat_eq hqop ▸ hq)
    simp only [decodeFields_unassigned hop]
    exact ⟨fun _ => .inl hnum, fun _ => ⟨_, rfl⟩⟩

theorem decodeCommand_error_iff (w : Word) : (∃ e, decodeCommand w = .error e) ↔ reservedWord w := by
  have hw := commandWord_toNat (opField w) (aField w) (bField w)
  rw [commandWord_fields] at hw
  have ha := (aField w).isLt
  have hb := (bField w).isLt
  have hop : w.toNat / 16777216 = (opField w).toNat := by omega
  have hrest : w.toNat % 16777216 = (aField w).toNat * 4096 + (bField w).toNat := by omega
  rw [reservedWord, hop, hrest, ← decodeFields_error_iff, ← decodeCommand_commandWord, commandWord_fields]

/-- The step whose next event is known to have no operation. -/
theorem step_refused_of_event {s : State} {e : Event} {r : Refusal} (hc : s.cfg.wellFormed = true)
    (he : s.nextEvent = some e) (ho : s.operationOf e = .error r) : step s = .refused r := by
  simp [step, State.fetch, hc, he, ho]

/-- Settles O5: an accepted word runs its command, which never answers that the word is reserved; the words not
accepted are the reserved ones. -/
theorem reservedWordsAndNoOthersAreRefused : Obligations.ReservedWordsAndNoOthersAreRefused := by
  intro s w rest hc hs
  have he := State.nextEvent_of_schedule hs
  rw [← decodeCommand_error_iff]
  cases hd : decodeCommand w with
  | ok i =>
    have hne : step s ≠ .refused .reservedWord := fun h => by
      rw [step_of_event hc he (s.operationOf_command hd)] at h
      obtain ⟨-, hr⟩ := exec_refused h
      cases hr
    simp [hne]
  | error e =>
    have ho : s.operationOf (.command w) = .error .reservedWord := by simp [State.operationOf, hd]
    simp [step_refused_of_event hc he ho]

/-! ### The decoding vectors (R98) and ticks (R96, R97, R216) -/

/-- Settles O1: each command word is the encoding of its command, the keys and the reserved words are computed, and
the 64 keys are gone through. -/
theorem specWordsDecode : Obligations.SpecWordsDecode := by
  have word (i : Instr) := decodeOfEncodeIsIdentity i
  refine ⟨word .nop, word (.setMode .lookup), word (.startRtty 1), word (.startRtty 331), word (.txRttyPolled 1),
    word (.startAprsGfsk 2 18), word (.startAprsLookup 1 2), word (.wrTxbuf 1 0x69), word (.wrApbuf 19 0x7E),
    word (.rdreg 5), word (.clrErr 4), by decide, by decide, by decide, by decide, ?mustBeZero, ?unassigned,
    by decide⟩
  case mustBeZero | unassigned =>
    simp only [List.forall_mem_cons, List.not_mem_nil, false_implies, implies_true, and_true]
    decide

theorem State.operationOf_tick {s : State} {v : Timer} (h : s.armed v = true) :
    s.operationOf (.tick v) = .ok (dispatch v s.mode s.rstate) := if_pos h

/-- Settles O7: the operation of the tick is the entry of the dispatch table, which the key selects. -/
theorem stepRunsDispatchedTick : Obligations.StepRunsDispatchedTick := by
  intro s v rest hc hs ha
  refine ⟨dispatch v s.mode s.rstate, decodeKey_dispatchKey v s.mode s.rstate, ?_⟩
  calc step s = exec (dispatch v s.mode s.rstate) s.consumeEvent :=
        step_of_event hc (State.nextEvent_of_schedule hs) (State.operationOf_tick ha)
    _ = exec (dispatch v s.mode s.rstate) { s with schedule := rest } := by rw [State.consumeEvent_of_schedule hs]

end Sys2Proof.Machine

namespace Sys2Proof.Machine

/-! ### The radio port's callers (R127, R200) -/

/-- Settles O55: the operations that emit are tick entries, and the polled loop is the excepted command; each of
the other operations leaves the trace and takes no readiness draw. -/
theorem onlyThePolledCommandEmits : Obligations.OnlyThePolledCommandEmits := by
  intro i s t hc hn h
  cases ran_of_exec h with
  | polled n => exact absurd rfl (hn n)
  | startbitChar | reloadChar | byte | stopbit | gfskBit | sample => cases hc
  | _ => simp [sameDraws]

/-! ### The deviation formula (R128, R129) -/

theorem devCode_eq_none_of_clock_zero (dev outdiv : Nat) : devCode dev 0 outdiv = none := if_pos rfl

theorem devCode_eq_some_div {ref : Nat} (h : ref ≠ 0) (dev outdiv : Nat) :
    devCode dev ref outdiv = some (2 ^ 19 * outdiv * dev / (2 * ref)) := if_neg h

/-- Settles O60: for a clock the code is the quotient of the two products, which lies within one divisor below the
dividend and grows with it. -/
theorem deviationCodeIsTheExactFloor : Obligations.DeviationCodeIsTheExactFloor := by
  refine fun dev ref outdiv => ⟨?_, fun h => ⟨_, devCode_eq_some_div h dev outdiv, ?floor, ?below, ?monotone⟩⟩
  · rintro rfl
    exact devCode_eq_none_of_clock_zero dev outdiv
  case floor => exact Nat.div_mul_le_self _ _
  case below => exact Nat.lt_mul_of_div_lt (Nat.lt_succ_self _) (by omega)
  case monotone =>
    intro dev' code' hdev hcode
    rw [devCode_eq_some_div h] at hcode
    obtain rfl := Option.some.inj hcode
    exact Nat.div_le_div_right (Nat.mul_le_mul_left _ hdev)

end Sys2Proof.Machine

namespace Sys2Proof.Machine

/-! ### The waveform table (R142 to R144) -/

theorem sineTable_length : sineTable.length = 256 := by
  simp only [sineTable, List.length_append]
  decide

/-- The table is added up row by row; the mean over a period is 128 (R143). -/
theorem sineTable_sum : (sineTable.map BitVec.toNat).sum = 128 * 256 := by
  simp only [sineTable, List.map_append, List.sum_append]
  decide

theorem advanceCursor_toNat (k step : Byte) :
    (advanceCursor k step).toNat = (k.toNat + step.toNat) % 256 := BitVec.toNat_add k step

/-- The first half wave is its own mirror image about its crest (R143). -/
theorem sample_mirror (k : Byte) (hk : k.toNat ≤ 128) : sample (128 - k) = sample k := by
  revert k; decide

/-- The second half wave is the first one reflected at the level 128 (R143). -/
theorem sample_halfWave (k : Byte) (hk : k.toNat ≤ 127) :
    (sample (128 + k)).toNat + (sample k).toNat = 256 := by
  revert k; decide

/-- Settles O59: the range and the two symmetries hold at each of the 256 cursors, the cursor's step is the 8-bit
sum, and the length, the mean and the quarter points are read off the constant table. -/
theorem waveformTableProperties : Obligations.WaveformTableProperties :=
  ⟨sineTable_length, sample_range, advanceCursor_toNat, sample_mirror, sample_halfWave, sineTable_sum,
    rfl, rfl, rfl, rfl⟩

end Sys2Proof.Machine

namespace Sys2Proof.Machine

/-! ### The RTTY tick entries (R152 to R159) -/

/-- Settles O10: the two encodings decode to their operations, whose meanings, like those of the other four empty
entries, answer the state itself. -/
theorem noOperationEntriesChangeNothing : Obligations.NoOperationEntriesChangeNothing := by
  refine ⟨decodeOfEncodeIsIdentity .nop, decodeOfEncodeIsIdentity .tickaRttyWait, ?_⟩
  simp only [List.forall_mem_cons, List.not_mem_nil, false_implies, implies_true, and_true]
  exact ⟨fun _ => rfl, fun _ => rfl, fun _ => rfl, fun _ => rfl, fun _ => rfl, fun _ => rfl⟩

/-- Settles O25: the work of PAUSE writes RPAUSE and RSTATE alone, by the test of RPAUSE against 1. -/
theorem pauseCountsDown : Obligations.PauseCountsDown := by
  intro s
  refine ⟨s.rttyPause, rfl, fun h => ?last, fun h => ?counts, ?frame⟩
  case last =>
    have h1 : s.rpause ≤ 1 := (le_one_iff (by decide) s.rpause).mpr h
    simp only [State.rttyPause_rpause, State.rttyPause_rstate, if_pos h1, and_self]
  case counts =>
    have h1 : ¬ s.rpause ≤ 1 := mt (le_one_iff (by decide) s.rpause).mp (by omega)
    simp only [State.rttyPause_rpause, State.rttyPause_rstate, if_neg h1, and_true]
    exact sub_one_toNat (by decide) s.rpause h
  case frame =>
    simp [sameTimers, sameErrors, sameFlags, sameDescriptors, sameAprs, sameData, sameBuffers, sameOutputs, sameHost,
      sameDraws]

section

variable {s : State} {i : Instr}

/-- STARTBIT and RELOAD share their work (R158). -/
theorem exec_startbit_or_reload (hi : i ∈ [Instr.tickaRttyStartbit, .tickaRttyReload]) (s : State) :
    exec i s = s.rttyCharOrDone := by
  rcases List.mem_pair.mp hi with rfl | rfl <;> rfl

theorem State.rttyCharOrDone_of_done (h : s.txlen ≤ s.txidx) : s.rttyCharOrDone = .next s.rttyComplete :=
  if_neg (BitVec.not_lt.mpr h)

theorem State.rttyCharOrDone_of_left (h : s.txidx < s.txlen) : s.rttyCharOrDone = s.startChar := if_pos h

theorem State.startChar_of_written {b : Byte} (hc : s.txidx.toNat < s.cfg.txCap)
    (hb : s.txbuf.read s.txidx.toNat = some b) : s.startChar = .next (s.charStarted b) := by
  rw [State.startChar, show s.loadChar = .ok b from readByte_written hc hb]
  rfl

theorem State.startChar_of_unwritten (hc : s.txidx.toNat < s.cfg.txCap)
    (hb : s.txbuf.read s.txidx.toNat = none) : s.startChar = .fault .unwrittenBufferRead := by
  rw [State.startChar, show s.loadChar = .error _ from readByte_unwritten hc hb]

theorem State.charStarted_emitted (s : State) (b : Byte) : emitted s (s.charStarted b) s.cfg.fRttySpace :=
  s.emit_emitted s.cfg.fRttySpace

theorem State.txidx_succ_toNat (h : s.txidx < s.txlen) : (s.txidx + 1).toNat = s.txidx.toNat + 1 := by bv_omega

end

/-- Settles O26: the start of a character is `charStarted`, whose emission is `emit`'s. -/
theorem characterStarts : Obligations.CharacterStarts := by
  intro s b i hi hlt hcap hb
  refine ⟨s.charStarted b, ?_, s.charStarted_emitted b, rfl, s.txidx_succ_toNat hlt, rfl, fun h => ?_, fun h => ?_, ?_⟩
  · rw [exec_startbit_or_reload hi, s.rttyCharOrDone_of_left hlt, s.startChar_of_written hcap hb]
  · rw [s.charStarted_rbitcnt, h]; rfl
  · rw [s.charStarted_rbitcnt, h]; rfl
  · simp [sameTimers, sameFlags, sameDescriptors, sameAprs, sameBuffers, sameHost]

/-- Settles O27: with no byte left the work is `rtty_complete`. -/
theorem rttyCompletes : Obligations.RttyCompletes := by
  intro s i hi hle
  refine ⟨s.rttyComplete, ?_, ?_⟩
  · rw [exec_startbit_or_reload hi, s.rttyCharOrDone_of_done hle]
  · simp [sameErrors, sameDescriptors, sameAprs, sameData, sameBuffers, sameOutputs, sameHost, sameDraws]

/-- Settles O28: the load of a byte never written is the fault, and the fault is the answer. -/
theorem unwrittenCharacterFaults : Obligations.UnwrittenCharacterFaults := by
  intro s i hi hlt hcap hb
  rw [exec_startbit_or_reload hi, s.rttyCharOrDone_of_left hlt, s.startChar_of_unwritten hcap hb]

theorem State.rttyByte_emitted (s : State) : emitted s s.rttyByte (symbolHz s.cfg (s.rcur.getLsbD 0)) := by
  simpa [emitted] using s.emit_emitted (symbolHz s.cfg (s.rcur.getLsbD 0))

theorem State.rttyStop_emitted {s : State} (h : s.rbitcnt = stopBitCount s.cfg.rttyNstop) :
    emitted s s.rttyStop s.cfg.fRttyMark := by
  simpa [emitted, h] using s.emit_emitted s.cfg.fRttyMark

theorem State.rttyStop_notEmitted {s : State} (h : s.rbitcnt ≠ stopBitCount s.cfg.rttyNstop) :
    notEmitted s s.rttyStop := by
  simp [notEmitted, sameDraws, h]

/-- The symbol of the low bit, by the parity of the byte (R151). -/
theorem symbolHz_low_bit (c : Config) (b : Byte) :
    symbolHz c (b.getLsbD 0) = if b.toNat % 2 = 1 then c.fRttyMark else c.fRttySpace := by
  rw [symbolHz, BitVec.getLsbD, Nat.testBit_zero]
  simp

/-- Settles O29: the work of BYTE emits the symbol of the low bit, and counts by the test of RBITCNT against 1. -/
theorem byteSendsTheLowBit : Obligations.ByteSendsTheLowBit := by
  intro s
  refine ⟨s.rttyByte, rfl, symbolHz_low_bit s.cfg s.rcur ▸ s.rttyByte_emitted, ?shift, fun h => ?last,
    fun h => ?counts, ?frame⟩
  case shift => simp [BitVec.toNat_ushiftRight, Nat.shiftRight_eq_div_pow]
  case last =>
    have h1 : s.rbitcnt ≤ 1 := (le_one_iff (by decide) s.rbitcnt).mpr h
    simp only [State.rttyByte_rstate, State.rttyByte_rbitcnt, if_pos h1, true_and]
    exact ⟨fun hn => by rw [hn]; rfl, fun hn => by rw [hn]; rfl⟩
  case counts =>
    have h1 : ¬ s.rbitcnt ≤ 1 := mt (le_one_iff (by decide) s.rbitcnt).mp (by omega)
    simp only [State.rttyByte_rstate, State.rttyByte_rbitcnt, if_neg h1, true_and]
    exact sub_one_toNat (by decide) s.rbitcnt h
  case frame => simp [sameTimers, sameFlags, sameDescriptors, sameAprs, sameBuffers, sameHost]

/-- Settles O30: the work of STOPBIT emits on the full stop count alone, and counts by the test of RBITCNT
against 1. -/
theorem stopbitHoldsTheMark : Obligations.StopbitHoldsTheMark := by
  intro s
  refine ⟨s.rttyStop, rfl, s.rttyStop_emitted, s.rttyStop_notEmitted, fun h => ?last, fun h => ?counts, ?frame⟩
  case last =>
    have h1 : s.rbitcnt ≤ 1 := (le_one_iff (by decide) s.rbitcnt).mpr h
    simp only [State.rttyStop_rstate, State.rttyStop_rbitcnt, if_pos h1, and_self]
  case counts =>
    have h1 : ¬ s.rbitcnt ≤ 1 := mt (le_one_iff (by decide) s.rbitcnt).mp (by omega)
    simp only [State.rttyStop_rstate, State.rttyStop_rbitcnt, if_neg h1, and_true]
    exact sub_one_toNat (by decide) s.rbitcnt h
  case frame => simp [sameTimers, sameFlags, sameDescriptors, sameAprs, sameBuffers, sameHost]

end Sys2Proof.Machine

namespace Sys2Proof.Machine

/-! ### Whole RTTY transmissions (R160 to R162)

The polled loop and the ticks of timer A make the same passes. What every pass of a transmission of written bytes
keeps is shown once; the loop and the run of ticks each add their induction over the passes left. -/

section

variable {s t u : State} {n : Index}

/-! #### The passes -/

/-- What one pass leaves, by the state of the RTTY machine (R150). -/
inductive Passed (s : State) : State → Prop where
  | pause (hr : s.rstate = .pause) : Passed s s.rttyPause
  | byte (hr : s.rstate = .byte) : Passed s s.rttyByte
  | stop (hr : s.rstate = .stopbit) : Passed s s.rttyStop
  | char (b : Byte) (hr : s.rstate = .startbit ∨ s.rstate = .reload) (hlt : s.txidx < s.txlen)
      (hb : s.txbuf.read s.txidx.toNat = some b) : Passed s (s.charStarted b)
  | complete (hr : s.rstate = .startbit ∨ s.rstate = .reload) (hle : s.txlen ≤ s.txidx) : Passed s s.rttyComplete

/-- A transmission of `n` bytes, all of them written, that is under way or just over. -/
structure State.Transmits (n : Index) (s : State) : Prop where
  length : s.txlen = n
  inside : n.toNat ≤ s.cfg.txCap
  written : ∀ j, j < n.toNat → (s.txbuf.read j).isSome = true
  position : s.txidx ≤ n
  pauseOver : s.rstate ≠ .pause → s.rpause = 0
  ended : s.rstate = .wait →
    s.rbitcnt = 0 ∧ s.txidx = n ∧ s.txReady = false ∧ s.txConsumed = true ∧ s.taArmed = false

/-- Each pass of a transmission comes through: no character load meets a byte never written. -/
theorem State.Transmits.pass (h : s.Transmits n) (hw : s.rstate ≠ .wait) : ∃ t, s.rttyPass = .next t ∧ Passed s t := by
  rcases s.rttyPass_cases with ⟨hr, he⟩ | ⟨hr, he⟩ | ⟨hr, he⟩ | ⟨hr, -⟩ | ⟨hr, he⟩
  · exact ⟨_, he, .pause hr⟩
  · exact ⟨_, he, .byte hr⟩
  · exact ⟨_, he, .stop hr⟩
  · exact absurd hr hw
  by_cases hlt : s.txidx < s.txlen
  · have hidx : s.txidx.toNat < n.toNat := h.length ▸ hlt
    obtain ⟨b, hb⟩ := Option.isSome_iff_exists.mp (h.written _ hidx)
    refine ⟨_, ?_, .char b hr hlt hb⟩
    rw [he, s.rttyCharOrDone_of_left hlt, s.startChar_of_written (hidx.trans_le h.inside) hb]
  · have hle : s.txlen ≤ s.txidx := BitVec.not_lt.mp hlt
    exact ⟨_, he.trans (s.rttyCharOrDone_of_done hle), .complete hr hle⟩

/-- A pass keeps the transmission; the one that completes it finds every byte sent. -/
theorem State.Transmits.passed (h : s.Transmits n) (hp : Passed s t) : t.Transmits n := by
  obtain ⟨hlen, hin, hwr, hpos, hpause, -⟩ := h
  cases hp with
  | pause hr =>
    refine ⟨by simpa, by simpa, by simpa, by simpa, fun hne => ?_, by simp [ite_eq_iff, hr]⟩
    by_cases hle : s.rpause ≤ 1
    · rw [State.rttyPause_rpause, if_pos hle]
    · rw [State.rttyPause_rstate, if_neg hle] at hne
      exact absurd hr hne
  | byte hr => exact ⟨by simpa, by simpa, by simpa, by simpa, by simp [hr, hpause], by simp [ite_eq_iff, hr]⟩
  | stop hr => exact ⟨by simpa, by simpa, by simpa, by simpa, by simp [hr, hpause], by simp [ite_eq_iff, hr]⟩
  | char b hr hlt hb =>
    have hrp : s.rpause = 0 := hpause (by rcases hr with hr | hr <;> simp [hr])
    exact ⟨hlen, hin, hwr, hlen ▸ (index_counts_up hlt).1, fun _ => hrp, by simp⟩
  | complete hr hle =>
    have hrp : s.rpause = 0 := hpause (by rcases hr with hr | hr <;> simp [hr])
    exact ⟨hlen, hin, hwr, hpos, fun _ => hrp, fun _ => ⟨rfl, BitVec.le_antisymm hpos (hlen ▸ hle), rfl, rfl, rfl⟩⟩

/-- What no pass writes: all but the RTTY machine, the hand-off of TXBUF, timer A's armed bit and the emissions. -/
def sameBesideRtty (s t : State) : Prop :=
  t.apReady = s.apReady ∧ t.apDone = s.apDone ∧ t.tbArmed = s.tbArmed ∧ t.taCmp = s.taCmp ∧ t.tbCmp = s.tbCmp
    ∧ t.mode = s.mode ∧ t.errMode = s.errMode ∧ t.errBovr = s.errBovr ∧ sameAprs s t
    ∧ t.apFs = s.apFs ∧ t.apFe = s.apFe ∧ t.rdregValues = s.rdregValues ∧ sameBuffers s t ∧ sameHost s t

theorem sameBesideRtty.passed (h : sameBesideRtty s t) (hp : Passed t u) : sameBesideRtty s u := by
  simp only [sameBesideRtty, sameAprs, sameBuffers, sameHost] at h ⊢
  cases hp <;> simpa using h

/-! #### The emissions still to come (R160) -/

/-- The bytes no character load has taken yet. -/
def State.unsentBytes (s : State) : List Byte :=
  (List.range' s.txidx.toNat (s.txlen.toNat - s.txidx.toNat)).map fun j => (s.txbuf.read j).getD 0

/-- The events of the characters still to start. -/
def State.laterEvents (s : State) : List RadioEvent := s.unsentBytes.flatMap (charEvents s.cfg)

/-- The events of the next `k` data bits of a byte. -/
def bitEvents (c : Config) (b : Byte) (k : Nat) : List RadioEvent :=
  (List.range k).map fun j => .freqFast (symbolHz c (b.getLsbD j))

/-- The events a transmission still has to send. A count of 0 is served as 1, and a stop count above the
full one is counted down to it first (R156, R157). -/
def State.toSend (s : State) : List RadioEvent :=
  match s.rstate with
  | .byte => bitEvents s.cfg s.rcur (max 1 s.rbitcnt.toNat) ++ .freqFast s.cfg.fRttyMark :: s.laterEvents
  | .stopbit =>
    if stopBitCount s.cfg.rttyNstop ≤ s.rbitcnt then .freqFast s.cfg.fRttyMark :: s.laterEvents else s.laterEvents
  | .pause | .startbit | .reload => s.laterEvents
  | .wait => []

theorem State.toSend_byte (hr : s.rstate = .byte) : s.toSend =
    bitEvents s.cfg s.rcur (max 1 s.rbitcnt.toNat) ++ .freqFast s.cfg.fRttyMark :: s.laterEvents := by
  rw [State.toSend, hr]

theorem State.toSend_stopbit (hr : s.rstate = .stopbit) : s.toSend =
    if stopBitCount s.cfg.rttyNstop ≤ s.rbitcnt then .freqFast s.cfg.fRttyMark :: s.laterEvents
    else s.laterEvents := by
  rw [State.toSend, hr]

/-- Between two characters, and before the first. -/
theorem State.toSend_between (hr : (s.rstate = .startbit ∨ s.rstate = .reload) ∨ s.rstate = .pause) :
    s.toSend = s.laterEvents := by
  rcases hr with (hr | hr) | hr <;> rw [State.toSend, hr]

theorem State.toSend_wait (hr : s.rstate = .wait) : s.toSend = [] := by rw [State.toSend, hr]

theorem charEvents_eq (c : Config) (b : Byte) :
    charEvents c b = .freqFast c.fRttySpace :: (bitEvents c b (bitsPerChar c) ++ [.freqFast c.fRttyMark]) := rfl

theorem charEvents_length (c : Config) (b : Byte) : (charEvents c b).length = bitsPerChar c + 2 := by
  simp [charEvents]

theorem bitEvents_succ (c : Config) (b : Byte) (k : Nat) :
    bitEvents c b (k + 1) = .freqFast (symbolHz c (b.getLsbD 0)) :: bitEvents c (b >>> 1) k := by
  simp [bitEvents, List.range_succ_eq_map, BitVec.getLsbD_ushiftRight, Nat.add_comm]

theorem State.laterEvents_of_left {b : Byte} (hlt : s.txidx < s.txlen) (hb : s.txbuf.read s.txidx.toNat = some b) :
    s.laterEvents = charEvents s.cfg b ++ (s.charStarted b).laterEvents := by
  have hlt' : s.txidx.toNat < s.txlen.toNat := hlt
  have hn : s.txlen.toNat - s.txidx.toNat = s.txlen.toNat - (s.txidx.toNat + 1) + 1 := by omega
  simp only [State.laterEvents, State.unsentBytes, State.charStarted_txidx, State.charStarted_txlen,
    State.charStarted_cfg, State.charStarted_txbuf, s.txidx_succ_toNat hlt]
  simp [hn, List.range'_succ, hb]

theorem State.laterEvents_of_done (hle : s.txlen ≤ s.txidx) : s.laterEvents = [] := by
  have hn : s.txlen.toNat - s.txidx.toNat = 0 := Nat.sub_eq_zero_of_le hle
  simp [State.laterEvents, State.unsentBytes, hn]

/-- From `s` to `t` at most one event is sent, the first of those still to come. -/
def SendsNext (s t : State) : Prop :=
  (∃ hz, emitted s t hz ∧ s.toSend = .freqFast hz :: t.toSend) ∨ notEmitted s t ∧ s.toSend = t.toSend

theorem State.rttyPause_sendsNext (hr : s.rstate = .pause) : SendsNext s s.rttyPause := by
  have ht : s.rttyPause.rstate = .startbit ∨ s.rttyPause.rstate = .pause := by
    rw [State.rttyPause_rstate, hr]; exact ite_eq_or_eq _ _ _
  have hl : s.rttyPause.laterEvents = s.laterEvents := by simp [State.laterEvents, State.unsentBytes]
  refine .inr ⟨by simp [notEmitted, sameDraws], ?_⟩
  rw [State.toSend_between (.inr hr), State.toSend_between (ht.imp_left .inl), hl]

theorem State.rttyByte_sendsNext (hr : s.rstate = .byte) : SendsNext s s.rttyByte := by
  refine .inl ⟨_, s.rttyByte_emitted, ?_⟩
  have hl : s.rttyByte.laterEvents = s.laterEvents := by simp [State.laterEvents, State.unsentBytes]
  by_cases h : s.rbitcnt ≤ 1
  · have hk : max 1 s.rbitcnt.toNat = 0 + 1 := by have := (le_one_iff (by decide) _).mp h; omega
    have ht : s.rttyByte.rstate = .stopbit := by rw [State.rttyByte_rstate, if_pos h]
    have hc : s.rttyByte.rbitcnt = stopBitCount s.cfg.rttyNstop := by rw [State.rttyByte_rbitcnt, if_pos h]
    rw [State.toSend_byte hr, State.toSend_stopbit ht, hk, hc, hl, bitEvents_succ, State.rttyByte_cfg,
      if_pos (BitVec.le_refl _)]
    rfl
  · have h1 : 1 < s.rbitcnt.toNat := Nat.lt_of_not_le (mt (le_one_iff (by decide) _).mpr h)
    have ht : s.rttyByte.rstate = .byte := by rw [State.rttyByte_rstate, if_neg h, hr]
    have hc : s.rttyByte.rbitcnt = s.rbitcnt - 1 := by rw [State.rttyByte_rbitcnt, if_neg h]
    have hk : max 1 s.rbitcnt.toNat = max 1 (s.rbitcnt - 1).toNat + 1 := by
      have := sub_one_toNat (by decide) s.rbitcnt h1; omega
    rw [State.toSend_byte hr, State.toSend_byte ht, hk, hc, hl, bitEvents_succ, State.rttyByte_cfg,
      State.rttyByte_rcur, List.cons_append]

/-- After a stop tick the mark is still to come only where the count was above the full one. -/
theorem State.rttyStop_toSend (hr : s.rstate = .stopbit) : s.rttyStop.toSend =
    if stopBitCount s.cfg.rttyNstop < s.rbitcnt then .freqFast s.cfg.fRttyMark :: s.laterEvents
    else s.laterEvents := by
  have h1 := one_le_stopBitCount s.cfg.rttyNstop
  have hl : s.rttyStop.laterEvents = s.laterEvents := by simp [State.laterEvents, State.unsentBytes]
  by_cases h : s.rbitcnt ≤ 1
  · have ht : s.rttyStop.rstate = .reload := by rw [State.rttyStop_rstate, if_pos h]
    have hlt : ¬ stopBitCount s.cfg.rttyNstop < s.rbitcnt := BitVec.not_lt.mpr (BitVec.le_trans h h1)
    rw [State.toSend_between (.inl (.inr ht)), hl, if_neg hlt]
  · have ht : s.rttyStop.rstate = .stopbit := by rw [State.rttyStop_rstate, if_neg h, hr]
    have hc : s.rttyStop.rbitcnt = s.rbitcnt - 1 := by rw [State.rttyStop_rbitcnt, if_neg h]
    have hiff : stopBitCount s.cfg.rttyNstop ≤ s.rbitcnt - 1 ↔ stopBitCount s.cfg.rttyNstop < s.rbitcnt := by
      generalize stopBitCount s.cfg.rttyNstop = m at h1
      bv_omega
    rw [State.toSend_stopbit ht, hl, hc, State.rttyStop_cfg]
    simp only [hiff]

theorem State.rttyStop_sendsNext (hr : s.rstate = .stopbit) : SendsNext s s.rttyStop := by
  by_cases hfull : s.rbitcnt = stopBitCount s.cfg.rttyNstop
  · refine .inl ⟨_, s.rttyStop_emitted hfull, ?_⟩
    rw [State.toSend_stopbit hr, State.rttyStop_toSend hr, hfull, if_pos (BitVec.le_refl _),
      if_neg (BitVec.lt_irrefl _)]
  · have hiff : stopBitCount s.cfg.rttyNstop ≤ s.rbitcnt ↔ stopBitCount s.cfg.rttyNstop < s.rbitcnt := by bv_omega
    refine .inr ⟨s.rttyStop_notEmitted hfull, ?_⟩
    rw [State.toSend_stopbit hr, State.rttyStop_toSend hr]
    simp only [hiff]

theorem State.charStarted_sendsNext {b : Byte} (hr : s.rstate = .startbit ∨ s.rstate = .reload)
    (hlt : s.txidx < s.txlen) (hb : s.txbuf.read s.txidx.toNat = some b) : SendsNext s (s.charStarted b) := by
  have hk : max 1 (s.charStarted b).rbitcnt.toNat = bitsPerChar s.cfg := max_eq_right (bitsPerChar_pos s.cfg)
  refine .inl ⟨_, s.charStarted_emitted b, ?_⟩
  rw [State.toSend_between (.inl hr), State.laterEvents_of_left hlt hb, charEvents_eq,
    State.toSend_byte (s.charStarted_rstate b), hk, List.cons_append, List.append_assoc]
  rfl

theorem State.rttyComplete_sendsNext (hr : s.rstate = .startbit ∨ s.rstate = .reload) (hle : s.txlen ≤ s.txidx) :
    SendsNext s s.rttyComplete := by
  refine .inr ⟨⟨rfl, rfl, rfl, rfl⟩, ?_⟩
  rw [State.toSend_between (.inl hr), State.laterEvents_of_done hle, State.toSend_wait s.rttyComplete_rstate]

theorem Passed.sendsNext (hp : Passed s t) : SendsNext s t := by
  cases hp with
  | pause hr => exact State.rttyPause_sendsNext hr
  | byte hr => exact State.rttyByte_sendsNext hr
  | stop hr => exact State.rttyStop_sendsNext hr
  | char b hr hlt hb => exact State.charStarted_sendsNext hr hlt hb
  | complete hr hle => exact State.rttyComplete_sendsNext hr hle

/-- The radio ready at each emission still to come: what was sent and what is to come are `trace`, ERR_CNR stays
`cnr`, and the answers beyond the last emission are `more`. -/
structure State.OnAir (trace : List RadioEvent) (cnr : Bool) (more : List Bool) (s : State) : Prop where
  sent : s.radioTrace ++ s.toSend = trace
  noError : s.errCnr = cnr
  ready : s.draws = List.replicate s.toSend.length true ++ more

theorem State.OnAir.passed {trace : List RadioEvent} {cnr : Bool} {more : List Bool} (h : s.OnAir trace cnr more)
    (hp : Passed s t) : t.OnAir trace cnr more := by
  obtain ⟨hsent, herr, hdraws⟩ := h
  rcases hp.sendsNext with ⟨hz, ⟨htr, hcnr, hd, -⟩, hto⟩ | ⟨⟨htr, hcnr, hd, -⟩, hto⟩
  · rw [hto, List.length_cons, List.replicate_succ, List.cons_append] at hdraws
    have hready : s.radioReady = true := by rw [State.radioReady, hdraws]
    rw [if_pos hready] at htr hcnr
    exact ⟨by rw [htr, ← hsent, hto, List.append_assoc]; rfl, hcnr.trans herr, by rw [hd, hdraws]; rfl⟩
  · exact ⟨by rw [htr, ← hto, hsent], hcnr.trans herr, by rw [hd, ← hto, hdraws]⟩

/-- Once the transmission is over everything is sent. -/
theorem State.OnAir.ended {trace : List RadioEvent} {cnr : Bool} {more : List Bool} (h : s.OnAir trace cnr more)
    (hw : s.rstate = .wait) : s.radioTrace = trace ∧ s.errCnr = cnr ∧ s.draws = more := by
  obtain ⟨hsent, herr, hdraws⟩ := h
  rw [State.toSend_wait hw] at hsent hdraws
  exact ⟨by simpa using hsent, herr, hdraws⟩

/-! #### The start of a transmission -/

theorem startState_ne_wait (p : BitVec 16) : startState p ≠ .wait := by
  rcases startState_cases p with h | h <;> rw [h] <;> decide

theorem State.polledStart_transmits (hn : n.toNat ≤ s.cfg.txCap)
    (hw : ∀ j, j < n.toNat → (s.txbuf.read j).isSome = true) : (s.polledStart n).Transmits n where
  length := by simp
  inside := by simpa
  written := by simpa
  position := by simp [BitVec.le_def]
  pauseOver := by simp [startState]
  ended h := absurd (s.polledStart_rstate n ▸ h) (startState_ne_wait _)

/-- Arming timer A of a transmission that is not over. -/
theorem State.Transmits.armA (h : s.Transmits n) (hw : s.rstate ≠ .wait) (cmp : Word) : (s.armA cmp).Transmits n :=
  ⟨h.length, h.inside, h.written, h.position, h.pauseOver, fun hr => absurd hr hw⟩

theorem State.OnAir.armA {trace : List RadioEvent} {cnr : Bool} {more : List Bool} (h : s.OnAir trace cnr more)
    (cmp : Word) : (s.armA cmp).OnAir trace cnr more := ⟨h.sent, h.noError, h.ready⟩

theorem State.polledStart_toSend {bytes : List Byte} (hlen : bytes.length = n.toNat)
    (hread : ∀ j, j < n.toNat → s.txbuf.read j = bytes[j]?) :
    (s.polledStart n).toSend = bytes.flatMap (charEvents s.cfg) := by
  have hr : (s.polledStart n).rstate = .startbit ∨ (s.polledStart n).rstate = .pause :=
    s.polledStart_rstate n ▸ startState_cases s.cfg.rttyPauseTicks
  have hbytes : (s.polledStart n).unsentBytes = bytes := by
    refine List.ext_getElem (by simp [State.unsentBytes, hlen]) fun j hj hj' => ?_
    simp [State.unsentBytes, hread j (hlen ▸ hj'), hj']
  rw [State.toSend_between (hr.imp_left .inl), State.laterEvents, hbytes, State.polledStart_cfg]

theorem flatMap_charEvents_length (c : Config) (bytes : List Byte) :
    (bytes.flatMap (charEvents c)).length = bytes.length * (bitsPerChar c + 2) := by
  simp [List.length_flatMap, charEvents_length]

theorem State.polledStart_onAir {bytes : List Byte} {more : List Bool} (hlen : bytes.length = n.toNat)
    (hread : ∀ j, j < n.toNat → s.txbuf.read j = bytes[j]?)
    (hdraws : s.draws = List.replicate (n.toNat * (bitsPerChar s.cfg + 2)) true ++ more) :
    (s.polledStart n).OnAir (s.radioTrace ++ bytes.flatMap (charEvents s.cfg)) s.errCnr more := by
  have hto := State.polledStart_toSend hlen hread
  exact ⟨by rw [hto, State.polledStart_radioTrace], s.polledStart_errCnr n,
    by rw [hto, flatMap_charEvents_length, hlen, State.polledStart_draws, hdraws]⟩

/-! #### The polled loop (R162, R275) -/

theorem State.passesLeft_eq_zero_iff : s.passesLeft = 0 ↔ s.rstate = .wait := by
  unfold State.passesLeft
  cases s.rstate <;> simp

theorem State.rstate_ne_wait_of_passesLeft {k : Nat} (hk : s.passesLeft = k + 1) : s.rstate ≠ .wait :=
  mt State.passesLeft_eq_zero_iff.mpr (hk ▸ Nat.succ_ne_zero k)

/-- A loop whose passes all come through ends in WAIT, with what its passes keep. -/
theorem pollLoop_ends {P : State → Prop}
    (hP : ∀ u, P u → u.rstate ≠ .wait → ∃ v, u.rttyPass = .next v ∧ P v) :
    ∀ (k : Nat) (s : State), P s → s.passesLeft = k → ∃ t, pollLoop k s = .next t ∧ P t ∧ t.rstate = .wait := by
  intro k
  induction k with
  | zero =>
    intro s hs hk
    have hw := State.passesLeft_eq_zero_iff.mp hk
    exact ⟨s, if_pos hw, hs, hw⟩
  | succ k ih =>
    intro s hs hk
    have hw := State.rstate_ne_wait_of_passesLeft hk
    obtain ⟨v, hv, hPv⟩ := hP s hs hw
    have hleft := State.passesLeft_pass hw hv
    rw [pollLoop_succ, if_neg hw, hv]
    exact ih v hPv (by omega)

/-- TX_RTTY_POLLED of an accepted length, for anything the passes of its transmission keep. -/
theorem exec_txRttyPolled_ends {P : State → Prop} (h0 : n ≠ 0) (hn : n.toNat ≤ s.cfg.txCap)
    (hw : ∀ j, j < n.toNat → (s.txbuf.read j).isSome = true) (start : P (s.polledStart n))
    (pass : ∀ u v, P u → Passed u v → P v) :
    ∃ t, exec (.txRttyPolled n) s = .next t ∧ t.Transmits n ∧ P t ∧ t.rstate = .wait := by
  obtain ⟨t, ht, ⟨htr, hPt⟩, hwait⟩ := pollLoop_ends (P := fun u => u.Transmits n ∧ P u)
    (fun u ⟨hu, hPu⟩ hne => by
      obtain ⟨v, hv, hp⟩ := hu.pass hne
      exact ⟨v, hv, hu.passed hp, pass u v hPu hp⟩)
    _ _ ⟨State.polledStart_transmits hn hw, start⟩ (s.passesLeft_polledStart n)
  exact ⟨t, (exec_txRttyPolled h0 hn).trans ht, htr, hPt, hwait⟩

/-! #### The ticks of timer A (R97, R216) -/

/-- The RTTY engine runs from timer A until it is in WAIT. -/
structure State.RttyTicks (s : State) : Prop where
  wellFormed : s.cfg.wellFormed = true
  mode : s.mode = .rttyInterrupt
  armed : s.rstate ≠ .wait → s.taArmed = true

theorem exec_dispatch_rtty (s : State) : exec (dispatch .a .rttyInterrupt s.rstate) s = s.rttyPass := by
  unfold State.rttyPass
  cases s.rstate <;> rfl

/-- A tick of timer A is one pass. -/
theorem State.RttyTicks.step_eq (h : s.RttyTicks) (hw : s.rstate ≠ .wait) {rest : List Event}
    (hs : s.schedule = .tick .a :: rest) : step s = s.consumeEvent.rttyPass := by
  rw [step_of_event h.wellFormed (State.nextEvent_of_schedule hs) (State.operationOf_tick (h.armed hw)), h.mode,
    ← s.consumeEvent_rstate, exec_dispatch_rtty]

theorem State.RttyTicks.consumeEvent (h : s.RttyTicks) : s.consumeEvent.RttyTicks :=
  ⟨by simpa using h.wellFormed, by simpa using h.mode, by simpa using h.armed⟩

theorem State.RttyTicks.passed (h : s.RttyTicks) (hw : s.rstate ≠ .wait) (hp : Passed s t) : t.RttyTicks := by
  obtain ⟨hc, hm, ha⟩ := h
  cases hp <;> exact ⟨by simpa, by simpa, by simp [ha hw]⟩

theorem State.passesLeft_consumeEvent (s : State) : s.consumeEvent.passesLeft = s.passesLeft := by
  simp only [State.passesLeft, State.consumeEvent_rstate, State.consumeEvent_rpause, State.consumeEvent_rbitcnt,
    State.consumeEvent_txlen, State.consumeEvent_txidx, State.consumeEvent_cfg]

theorem Passed.schedule (hp : Passed s t) : t.schedule = s.schedule := by cases hp <;> simp

theorem State.Transmits.consumeEvent (h : s.Transmits n) : s.consumeEvent.Transmits n := by
  obtain ⟨hlen, hin, hwr, hpos, hpause, hend⟩ := h
  constructor <;> simpa

theorem State.OnAir.consumeEvent {trace : List RadioEvent} {cnr : Bool} {more : List Bool}
    (h : s.OnAir trace cnr more) : s.consumeEvent.OnAir trace cnr more := by
  obtain ⟨hsent, herr, hdraws⟩ := h
  have hto : s.consumeEvent.toSend = s.toSend := by
    simp [State.toSend, State.laterEvents, State.unsentBytes]
  exact ⟨by simpa [hto], by simpa, by simpa [hto]⟩

/-- As many ticks as passes are left, all of them serviced, end a transmission, with what its passes keep. -/
theorem run_ticks_ends {P : State → Prop} (event : ∀ u, P u → P u.consumeEvent)
    (pass : ∀ u v, P u → Passed u v → P v) :
    ∀ (k : Nat) (s : State), s.Transmits n → P s → s.RttyTicks → s.passesLeft = k →
      s.schedule = List.replicate k (.tick .a) →
      ∃ t, Host.Core.run Sys2Proof.core k s = .next t ∧ t.Transmits n ∧ P t ∧ t.rstate = .wait ∧ t.schedule = [] := by
  intro k
  induction k with
  | zero =>
    intro s htr hP _ hk hs
    exact ⟨s, rfl, htr, hP, State.passesLeft_eq_zero_iff.mp hk, hs⟩
  | succ k ih =>
    intro s htr hP hti hk hs
    have hw := State.rstate_ne_wait_of_passesLeft hk
    have hw' : s.consumeEvent.rstate ≠ .wait := by rwa [s.consumeEvent_rstate]
    obtain ⟨v, hv, hp⟩ := htr.consumeEvent.pass hw'
    have hstep : step s = .next v := (hti.step_eq hw hs).trans hv
    have hleft := State.passesLeft_pass hw' hv
    rw [s.passesLeft_consumeEvent] at hleft
    rw [run_succ_of_step hstep]
    refine ih v (htr.consumeEvent.passed hp) (pass _ v (event s hP) hp) (hti.consumeEvent.passed hw' hp) (by omega) ?_
    rw [hp.schedule, s.consumeEvent_schedule, hs, List.replicate_succ, List.tail_cons]

/-- START_RTTY of an accepted length is the polled start with timer A armed (R208). -/
theorem exec_startRtty (h0 : n ≠ 0) (hn : n.toNat ≤ s.cfg.txCap) :
    exec (.startRtty n) s = .next ((s.polledStart n).armA (s.polledStart n).cfg.consts.cmpRtty) := by
  rcases s.rttySetup_cases n with ⟨h, -⟩ | ⟨-, h, -⟩ | ⟨-, -, h⟩
  · omega
  · exact absurd h h0
  · simp only [exec, execStartRtty, h]; rfl

end

/-! #### The three statements -/

/-- Settles O31: the loop's passes keep the transmission of written bytes and all that is beside it. -/
theorem polledTransmissionCompletes : Obligations.PolledTransmissionCompletes := by
  intro n s h0 hn hw
  obtain ⟨t, ht, htr, hside, hwait⟩ := exec_txRttyPolled_ends (P := sameBesideRtty (s.polledStart n)) h0 hn hw
    (by simp [sameBesideRtty, sameAprs, sameBuffers, sameHost]) (fun _ _ => .passed)
  obtain ⟨hcnt, hidx, hready, hconsumed, harmed⟩ := htr.ended hwait
  refine ⟨t, ht, hwait, hcnt, htr.pauseOver (by simp [hwait]), hidx, htr.length, hready, hconsumed, ?_⟩
  simpa [sameBesideRtty, sameAprs, sameBuffers, sameHost, apReleased, harmed, and_assoc] using hside

theorem isSome_of_reads {m : Memory} {bytes : List Byte} {k : Nat} (hlen : bytes.length = k)
    (hread : ∀ j, j < k → m.read j = bytes[j]?) (j : Nat) (hj : j < k) : (m.read j).isSome = true := by
  rw [hread j hj, List.getElem?_eq_getElem (hlen ▸ hj)]
  rfl

/-- Settles O32: each pass sends at most the first event still to come, and in WAIT none is. -/
theorem polledTransmissionEmitsEveryCharacter : Obligations.PolledTransmissionEmitsEveryCharacter := by
  intro n s bytes more h0 hn hlen hread hdraws
  obtain ⟨t, ht, -, hair, hwait⟩ := exec_txRttyPolled_ends h0 hn (isSome_of_reads hlen hread)
    (State.polledStart_onAir hlen hread hdraws) (fun _ _ => .passed)
  exact ⟨t, ht, hair.ended hwait⟩

/-- Settles O33: the START leaves the polled start with timer A armed, and each tick is one pass of it. -/
theorem rttyTransmissionByTicks : Obligations.RttyTransmissionByTicks := by
  intro n s bytes hc h0 hn hlen hread hdraws hs
  let first : State := { s with schedule := List.replicate (rttyPasses s.cfg n) (.tick .a) }
  have hstep : step s = .next ((first.polledStart n).armA (first.polledStart n).cfg.consts.cmpRtty) :=
    (stepRunsScheduledCommand s _ _ _ hc hs (decodeOfEncodeIsIdentity (.startRtty n))).trans (exec_startRtty h0 hn)
  have htr : (first.polledStart n).Transmits n := State.polledStart_transmits hn (isSome_of_reads hlen hread)
  have hair : (first.polledStart n).OnAir (s.radioTrace ++ bytes.flatMap (charEvents s.cfg)) s.errCnr [] :=
    State.polledStart_onAir (s := first) hlen hread (hdraws.trans (List.append_nil _).symm)
  have hne : (first.polledStart n).rstate ≠ .wait := first.polledStart_rstate n ▸ startState_ne_wait _
  obtain ⟨t, ht, htr', hair', hwait, hsched⟩ := run_ticks_ends (P := State.OnAir _ s.errCnr [])
    (fun _ => .consumeEvent) (fun _ _ => .passed) (rttyPasses s.cfg n) _ (htr.armA hne _) (hair.armA _)
    ⟨by simpa [first], by simp, fun _ => rfl⟩ (first.passesLeft_polledStart n) (by simp [first])
  obtain ⟨htrace, hcnr, -⟩ := hair'.ended hwait
  obtain ⟨-, hidx, hready, hconsumed, harmed⟩ := htr'.ended hwait
  refine ⟨t, ?_, htrace, hcnr, hwait, harmed, hready, hconsumed, hidx, hsched⟩
  rw [Nat.add_comm, run_succ_of_step hstep]
  exact ht

end Sys2Proof.Machine

namespace Sys2Proof.Machine

/-! ### The APRS tick entries of timer A (R171 to R174, R178, R186) -/

section

variable {s : State} {i : Instr}

theorem State.nextBit_of_written {v : Byte} (hc : s.aidx.toNat < s.cfg.apCap)
    (hv : s.apbuf.read s.aidx.toNat = some v) : s.nextBit = .ok (v.getLsbD s.abit.toNat, s.advanceBit) := by
  rw [State.nextBit, show s.fetchByte = .ok v from readByte_written hc hv]

theorem State.nextBit_of_unwritten (hc : s.aidx.toNat < s.cfg.apCap) (hv : s.apbuf.read s.aidx.toNat = none) :
    s.nextBit = .error .unwrittenBufferRead := by
  rw [State.nextBit, show s.fetchByte = .error _ from readByte_unwritten hc hv]

/-- Both APRS engines complete alike. -/
theorem exec_aprsTick_of_done (hi : i ∈ [Instr.tickaGfsk, .tickaLookup]) (h : s.apFe ≤ s.aidx) :
    exec i s = .next s.aprsComplete := by
  rcases List.mem_pair.mp hi with rfl | rfl
  · exact if_pos h
  · exact if_pos h

/-- Both APRS engines answer the fault of their bit fetch. -/
theorem exec_aprsTick_of_fault {f : Fault} (hi : i ∈ [Instr.tickaGfsk, .tickaLookup]) (h : s.aidx < s.apFe)
    (hf : s.nextBit = .error f) : exec i s = .fault f := by
  have hlt : ¬ s.apFe ≤ s.aidx := BitVec.not_le.mpr h
  rcases List.mem_pair.mp hi with rfl | rfl
  · rw [exec, execTickaGfsk, if_neg hlt, hf]
  · rw [exec, execTickaLookup, if_neg hlt, hf]

/-- What a GFSK tick leaves when it fetched the bit `b`: the tone of the bit, emitted (R173). -/
def State.gfskSent (s : State) (b : Bool) : State :=
  (s.advanceBit.setTone (nrziTone s.atone b)).emit (toneHz s.cfg (nrziTone s.atone b))

theorem exec_tickaGfsk_of_bit {b : Bool} (h : s.aidx < s.apFe) (hb : s.nextBit = .ok (b, s.advanceBit)) :
    exec .tickaGfsk s = .next (s.gfskSent b) := by
  rw [exec, execTickaGfsk, if_neg (BitVec.not_le.mpr h), hb]
  rfl

theorem exec_tickaLookup_of_bit {b : Bool} (h : s.aidx < s.apFe) (hb : s.nextBit = .ok (b, s.advanceBit)) :
    exec .tickaLookup s = .next (if b then s.advanceBit else s.advanceBit.toneTransition) := by
  rw [exec, execTickaLookup, if_neg (BitVec.not_le.mpr h), hb]

/-- Inside the window the byte index has room, so the cursor advances by exactly one bit. -/
theorem State.advanceBit_position_of_inside (h : s.aidx < s.apFe) :
    8 * s.advanceBit.aidx.toNat + s.advanceBit.abit.toNat = 8 * s.aidx.toNat + s.abit.toNat + 1 :=
  s.advanceBit_position (by bv_omega)

/-! #### The tone rule (R172, R178) -/

theorem otherTone_ne (t : Tone) : otherTone t ≠ t := by cases t <;> decide

@[simp] theorem nrziTone_true (t : Tone) : nrziTone t true = t := rfl

@[simp] theorem nrziTone_false (t : Tone) : nrziTone t false = otherTone t := rfl

theorem toneHz_eq_ite (c : Config) (t : Tone) :
    toneHz c t = if t = .t1200 then c.fAprs1200 else c.fAprs2200 := by cases t <;> rfl

theorem toneStep_eq_ite (c : Config) (t : Tone) :
    toneStep c t = if t = .t2200 then c.consts.step2200 else c.consts.step1200 := by cases t <;> rfl

/-! #### What a GFSK tick writes -/

@[simp] theorem State.gfskSent_aidx (s : State) (b : Bool) : (s.gfskSent b).aidx = s.advanceBit.aidx := rfl

@[simp] theorem State.gfskSent_abit (s : State) (b : Bool) : (s.gfskSent b).abit = s.advanceBit.abit := rfl

@[simp] theorem State.gfskSent_atone (s : State) (b : Bool) : (s.gfskSent b).atone = nrziTone s.atone b := rfl

theorem State.gfskSent_emitted (s : State) (b : Bool) :
    emitted s (s.gfskSent b) (toneHz s.cfg (nrziTone s.atone b)) := by
  have hready : (s.advanceBit.setTone (nrziTone s.atone b)).radioReady = s.radioReady := by simp [State.radioReady]
  simpa [emitted, State.gfskSent, hready] using
    (s.advanceBit.setTone (nrziTone s.atone b)).emit_emitted (toneHz s.cfg (nrziTone s.atone b))

end

/-- Settles O37: at the end of the window the work of both entries is `aprs_complete`. -/
theorem aprsCompletes : Obligations.AprsCompletes := by
  intro s i hi hle
  refine ⟨s.aprsComplete, exec_aprsTick_of_done hi hle, ?_⟩
  simp [sameErrors, sameRtty, sameDescriptors, sameAprs, sameData, sameBuffers, sameOutputs, sameHost, sameDraws]

/-- Settles O38: the bit fetch from a byte never written is the fault, and the fault is the answer. -/
theorem unwrittenWindowByteFaults : Obligations.UnwrittenWindowByteFaults := by
  intro s i hi hlt hcap hv
  exact exec_aprsTick_of_fault hi hlt (State.nextBit_of_unwritten hcap hv)

/-- Settles O35: the tick leaves `gfskSent` of the bit at the cursor, whose emission is that of the new tone. -/
theorem gfskTickSendsOneBit : Obligations.GfskTickSendsOneBit := by
  intro s v hlt hcap hv
  refine ⟨s.gfskSent (v.getLsbD s.abit.toNat), exec_tickaGfsk_of_bit hlt (State.nextBit_of_written hcap hv),
    fun h => ?one, fun h => ?zero, ?emission, State.advanceBit_position_of_inside hlt, ?frame⟩
  case one => rw [State.gfskSent_atone, h, nrziTone_true]
  case zero => rw [State.gfskSent_atone, h, nrziTone_false]; exact otherTone_ne s.atone
  case emission => exact toneHz_eq_ite s.cfg _ ▸ s.gfskSent_emitted _
  case frame =>
    simp [State.gfskSent, sameTimers, sameFlags, sameRtty, sameDescriptors, sameBuffers, sameHost]

/-- Settles O36: the tick leaves the advanced cursor after a 1, and the tone transition of it after a 0. -/
theorem lookupTickTakesOneBit : Obligations.LookupTickTakesOneBit := by
  intro s v hlt hcap hv
  have hexec := exec_tickaLookup_of_bit hlt (State.nextBit_of_written hcap hv)
  have hpos := State.advanceBit_position_of_inside hlt
  generalize v.getLsbD s.abit.toNat = b at hexec ⊢
  refine ⟨_, hexec, ?one, ?zero, ?position, ?frame⟩
  case one => rintro rfl; simp
  case zero => rintro rfl; simp [otherTone_ne, toneStep_eq_ite]
  case position => cases b <;> exact hpos
  case frame =>
    cases b <;>
      simp [sameTimers, sameErrors, sameFlags, sameRtty, sameDescriptors, sameData, sameBuffers, sameOutputs, sameHost,
        sameDraws]

end Sys2Proof.Machine

namespace Sys2Proof.Machine

/-! ### Whole GFSK transmissions (R176)

A tick of timer A sends the first of the bits still to come, so a run of ticks is an induction over those bits. -/

/-- The bit at a bit position of a buffer, if its byte has been written (R67). -/
def Memory.bit (m : Memory) (p : Nat) : Option Bool := (m.read (p / 8)).map fun v => v.getLsbD (p % 8)

theorem Memory.exists_of_bit_eq_some {m : Memory} {a k : Nat} {b : Bool} (hk : k < 8)
    (h : m.bit (8 * a + k) = some b) : ∃ v, m.read a = some v ∧ v.getLsbD k = b := by
  have hdiv : (8 * a + k) / 8 = a := by omega
  have hmod : (8 * a + k) % 8 = k := by omega
  rwa [Memory.bit, hdiv, hmod, Option.map_eq_some_iff] at h

theorem getElem?_flatMap_bitsOf (window : List Byte) (j : Nat) :
    (window.flatMap bitsOf)[j]? = (window[j / 8]?).map fun v => v.getLsbD (j % 8) := by
  induction window generalizing j with
  | nil => simp
  | cons v window ih =>
    have hlen : (bitsOf v).length = 8 := rfl
    rw [List.flatMap_cons, List.getElem?_append, hlen]
    split
    · next h => simp [bitsOf, h, Nat.div_eq_of_lt h, Nat.mod_eq_of_lt h]
    · next h =>
      obtain ⟨q, rfl⟩ : ∃ q, j = 8 + q := ⟨j - 8, by omega⟩
      have hdiv : (8 + q) / 8 = q / 8 + 1 := by omega
      have hmod : (8 + q) % 8 = q % 8 := by omega
      rw [Nat.add_sub_cancel_left, ih, hdiv, hmod, List.getElem?_cons_succ]

theorem length_flatMap_bitsOf (window : List Byte) : (window.flatMap bitsOf).length = 8 * window.length := by
  simp [List.length_flatMap, bitsOf, Nat.mul_comm]

section

variable {s : State} {fe : Index} {trace : List RadioEvent} {cnr b : Bool} {bits : List Bool}

/-- The bits of the window up to `fe` that the cursor has not passed are `bits`, all of them written. -/
structure State.Unsent (fe : Index) (bits : List Bool) (s : State) : Prop where
  windowEnd : s.apFe = fe
  inside : fe.toNat ≤ s.cfg.apCap
  cursor : 8 * s.aidx.toNat + s.abit.toNat + bits.length = 8 * fe.toNat
  written : ∀ j, j < bits.length → s.apbuf.bit (8 * s.aidx.toNat + s.abit.toNat + j) = bits[j]?

/-- The radio ready at each emission still to come: the tones sent and those of `bits` are `trace`, and ERR_CNR
stays `cnr`. -/
structure State.TonesOnAir (trace : List RadioEvent) (cnr : Bool) (bits : List Bool) (s : State) : Prop where
  sent : s.radioTrace ++ (nrziTones s.atone bits).map (fun x => .freqFast (toneHz s.cfg x)) = trace
  noError : s.errCnr = cnr
  ready : s.draws = List.replicate bits.length true

/-- The GFSK engine runs from timer A, and the schedule holds `k` ticks of it. -/
structure State.GfskTicks (k : Nat) (s : State) : Prop where
  wellFormed : s.cfg.wellFormed = true
  mode : s.mode = .gfskSync
  armed : s.taArmed = true
  ticks : s.schedule = List.replicate k (.tick .a)

/-! #### One tick -/

theorem State.Unsent.aidx_lt (h : s.Unsent fe (b :: bits)) : s.aidx < s.apFe := by
  have hcur := h.cursor
  rw [List.length_cons] at hcur
  rw [h.windowEnd, BitVec.lt_def]
  omega

/-- With no bit left the cursor is at the start of the byte at the window's end. -/
theorem State.Unsent.aidx_eq (h : s.Unsent fe []) : s.aidx = fe := by
  have hcur := h.cursor
  have habit := s.abit.isLt
  rw [List.length_nil] at hcur
  exact BitVec.eq_of_toNat_eq (by omega)

theorem State.Unsent.nextBit (h : s.Unsent fe (b :: bits)) : s.nextBit = .ok (b, s.advanceBit) := by
  obtain ⟨v, hv, hb⟩ := Memory.exists_of_bit_eq_some s.abit.isLt (h.written 0 (Nat.succ_pos _))
  have hlt : s.aidx.toNat < s.apFe.toNat := h.aidx_lt
  rw [State.nextBit_of_written (hlt.trans_le (h.windowEnd ▸ h.inside)) hv, hb]

theorem State.Unsent.consumeEvent (h : s.Unsent fe bits) : s.consumeEvent.Unsent fe bits := by
  obtain ⟨hfe, hin, hcur, hwr⟩ := h
  constructor <;> simpa

theorem State.Unsent.gfskSent (h : s.Unsent fe (b :: bits)) : (s.gfskSent b).Unsent fe bits := by
  have hpos := State.advanceBit_position_of_inside h.aidx_lt
  obtain ⟨hfe, hin, hcur, hwr⟩ := h
  refine ⟨by simpa [State.gfskSent], by simpa [State.gfskSent], ?_, fun j hj => ?_⟩
  · rw [List.length_cons] at hcur
    rw [State.gfskSent_aidx, State.gfskSent_abit]
    omega
  · have hbuf : (s.gfskSent b).apbuf = s.apbuf := by simp [State.gfskSent]
    rw [hbuf, State.gfskSent_aidx, State.gfskSent_abit, hpos, Nat.add_assoc, Nat.add_comm 1 j,
      hwr (j + 1) (Nat.succ_lt_succ hj), List.getElem?_cons_succ]

theorem State.TonesOnAir.consumeEvent (h : s.TonesOnAir trace cnr bits) : s.consumeEvent.TonesOnAir trace cnr bits := by
  obtain ⟨hsent, herr, hdraws⟩ := h
  constructor <;> simpa

theorem State.TonesOnAir.gfskSent (h : s.TonesOnAir trace cnr (b :: bits)) :
    (s.gfskSent b).TonesOnAir trace cnr bits := by
  obtain ⟨hsent, herr, hdraws⟩ := h
  obtain ⟨htr, hcnr, hd, -⟩ := s.gfskSent_emitted b
  have hready : s.radioReady = true := by rw [State.radioReady, hdraws]; rfl
  have hcfg : (s.gfskSent b).cfg = s.cfg := by simp [State.gfskSent]
  rw [if_pos hready] at htr hcnr
  refine ⟨?_, hcnr.trans herr, by rw [hd, hdraws]; rfl⟩
  rw [htr, hcfg, State.gfskSent_atone, List.append_assoc]
  exact hsent

/-- A tick of timer A runs the GFSK entry. -/
theorem State.GfskTicks.step_eq {k : Nat} (h : s.GfskTicks (k + 1)) : step s = exec .tickaGfsk s.consumeEvent := by
  rw [step_of_event h.wellFormed (State.nextEvent_of_schedule h.ticks) (State.operationOf_tick h.armed), h.mode]
  rfl

theorem State.GfskTicks.gfskSent {k : Nat} (h : s.GfskTicks (k + 1)) (b : Bool) :
    (s.consumeEvent.gfskSent b).GfskTicks k := by
  obtain ⟨hc, hm, ha, hs⟩ := h
  constructor <;> simp [State.gfskSent, hc, hm, ha, hs]

/-! #### The run of ticks -/

/-- One tick per bit still to come and one more, all of them serviced, end the transmission. -/
theorem run_gfskTicks_ends (bits : List Bool) (s : State) (hun : s.Unsent fe bits)
    (hair : s.TonesOnAir trace cnr bits) (hti : s.GfskTicks (bits.length + 1)) :
    ∃ t : State, Host.Core.run Sys2Proof.core (bits.length + 1) s = .next t
      ∧ t.radioTrace = trace ∧ t.errCnr = cnr ∧ t.aidx = fe ∧ t.taArmed = false ∧ t.tbArmed = false
      ∧ t.apReady = false ∧ t.apDone = true ∧ t.schedule = [] := by
  induction bits generalizing s with
  | nil =>
    have hdone : s.consumeEvent.apFe ≤ s.consumeEvent.aidx := by
      rw [hun.consumeEvent.windowEnd, hun.consumeEvent.aidx_eq]
      exact BitVec.le_refl fe
    have hstep : step s = .next s.consumeEvent.aprsComplete :=
      hti.step_eq.trans (exec_aprsTick_of_done (by simp) hdone)
    refine ⟨_, run_succ_of_step hstep, ?_⟩
    simpa [hair.noError, hun.aidx_eq, hti.ticks, nrziTones] using hair.sent
  | cons b bits ih =>
    have hstep : step s = .next (s.consumeEvent.gfskSent b) :=
      hti.step_eq.trans (exec_tickaGfsk_of_bit hun.consumeEvent.aidx_lt hun.consumeEvent.nextBit)
    rw [List.length_cons, run_succ_of_step hstep]
    exact ih _ hun.consumeEvent.gfskSent hair.consumeEvent.gfskSent (hti.gfskSent b)

/-! #### The start of a transmission -/

/-- The state an accepted START_APRS_GFSK leaves (R209, R210). -/
def State.gfskStarted (s : State) (fs fe : Index) : State :=
  State.armA (State.handOverAp { s.stopPrevious with mode := .gfskSync, apFs := fs, apFe := fe, aidx := fs })
    s.stopPrevious.cfg.consts.cmpGfsk

theorem exec_startAprsGfsk {fs : Index} (hlt : fs < fe) (hcap : fe.toNat ≤ s.cfg.apCap) :
    exec (.startAprsGfsk fs fe) s = .next (s.gfskStarted fs fe) := by
  rcases s.aprsSetup_cases fs fe .gfskSync with ⟨h, -⟩ | ⟨-, h, -⟩ | ⟨-, -, h⟩
  · omega
  · exact absurd hlt (BitVec.not_lt.mpr h)
  · simp only [exec, execStartAprsGfsk, h]
    rfl

theorem State.gfskStarted_unsent {fs : Index} {window : List Byte} (hcap : fe.toNat ≤ s.cfg.apCap)
    (hlen : fs.toNat + window.length = fe.toNat)
    (hread : ∀ j, j < window.length → s.apbuf.read (fs.toNat + j) = window[j]?) :
    (s.gfskStarted fs fe).Unsent fe (window.flatMap bitsOf) := by
  have hl := length_flatMap_bitsOf window
  refine ⟨by simp [State.gfskStarted], by simpa [State.gfskStarted], ?_, fun j hj => ?_⟩
  · simp [State.gfskStarted, hl]
    omega
  · have hdiv : (8 * fs.toNat + j) / 8 = fs.toNat + j / 8 := by omega
    have hmod : (8 * fs.toNat + j) % 8 = j % 8 := by omega
    simp [State.gfskStarted, Memory.bit, hdiv, hmod, getElem?_flatMap_bitsOf, hread (j / 8) (by omega)]

theorem State.gfskStarted_tonesOnAir {fs : Index} (hdraws : s.draws = List.replicate bits.length true) :
    (s.gfskStarted fs fe).TonesOnAir
      (s.radioTrace ++ (nrziTones .t1200 bits).map (fun x => .freqFast (toneHz s.cfg x))) s.errCnr bits := by
  constructor <;> simp [State.gfskStarted, hdraws]

theorem State.gfskStarted_gfskTicks {fs : Index} {k : Nat} (hc : s.cfg.wellFormed = true)
    (hs : s.schedule = List.replicate k (.tick .a)) : (s.gfskStarted fs fe).GfskTicks k := by
  constructor <;> simp [State.gfskStarted, hc, hs]

end

/-- Settles O34: the START leaves the window's bits to send, and each tick sends the first of them. -/
theorem gfskTransmissionByTicks : Obligations.GfskTransmissionByTicks := by
  intro fs fe s window hc hlt hcap hlen hread hdraws hs
  rw [← length_flatMap_bitsOf] at hdraws hs ⊢
  let first : State := { s with schedule := List.replicate ((window.flatMap bitsOf).length + 1) (.tick .a) }
  have hstep : step s = .next (first.gfskStarted fs fe) :=
    (stepRunsScheduledCommand s _ _ _ hc hs (decodeOfEncodeIsIdentity (.startAprsGfsk fs fe))).trans
      (exec_startAprsGfsk hlt hcap)
  rw [Nat.add_comm, run_succ_of_step hstep]
  exact run_gfskTicks_ends _ _ (first.gfskStarted_unsent hcap hlen hread) (first.gfskStarted_tonesOnAir hdraws)
    (first.gfskStarted_gfskTicks hc rfl)

end Sys2Proof.Machine

namespace Sys2Proof.Machine

/-! ### The lookup sample of timer B (R187, R188, R190) -/

/-- What a lookup tick of timer B leaves when the scaled sample is `hz`: it is emitted, and the cursor advances
(R187). -/
def State.sampleSent (s : State) (hz : Hz) : State :=
  { s.emit hz with lcur := advanceCursor s.lcur s.lstep }

theorem exec_tickbLookup_of_hz {s : State} {hz : Hz} (h : lutHz s.cfg s.atone (sample s.lcur) = some hz) :
    exec .tickbLookup s = .next (s.sampleSent hz) := by
  rw [exec, execTickbLookup, h]
  rfl

/-- A well-formed configuration never refuses the tick. -/
theorem exec_tickbLookup_of_wellFormed {s : State} (hc : s.cfg.wellFormed = true) :
    ∃ hz : Hz, exec .tickbLookup s = .next (s.sampleSent hz)
      ∧ (hz.toNat : Int) = lutValue s.cfg s.atone (sample s.lcur) := by
  obtain ⟨hz, hsome, hval⟩ := lutHz_of_wellFormed s.cfg s.atone s.lcur hc
  exact ⟨hz, exec_tickbLookup_of_hz hsome, hval⟩

theorem State.sampleSent_emitted (s : State) (hz : Hz) : emitted s (s.sampleSent hz) hz := s.emit_emitted hz

theorem State.sampleSent_lcur (s : State) (hz : Hz) : (s.sampleSent hz).lcur = advanceCursor s.lcur s.lstep := rfl

/-- Settles O39: the tick leaves `sampleSent` of the scaled sample, whose emission is that of `emit`. -/
theorem lookupSampleIsScaledAndEmitted : Obligations.LookupSampleIsScaledAndEmitted := by
  intro s hc
  obtain ⟨hz, hexec, hval⟩ := exec_tickbLookup_of_wellFormed hc
  refine ⟨s.sampleSent hz, hz, hexec, s.sampleSent_emitted hz, fun h => ?t1200, fun h => ?t2200,
    advanceCursor_toNat s.lcur s.lstep, ?frame⟩
  case t1200 | t2200 => rw [hval, h]; rfl
  case frame =>
    simp [State.sampleSent, sameTimers, sameFlags, sameRtty, sameDescriptors, sameBuffers, sameHost]

/-! #### The run of ticks -/

section

variable {s : State} {k : Nat} {rest : List Event} {more : List Bool}

/-- The lookup engine runs; `k` ticks of timer B come next, each finding the radio ready, then `rest` of the
schedule and `more` of the answers. -/
structure State.LookupTicks (k : Nat) (rest : List Event) (more : List Bool) (s : State) : Prop where
  wellFormed : s.cfg.wellFormed = true
  mode : s.mode = .lookup
  armed : s.tbArmed = true
  ticks : s.schedule = List.replicate k (.tick .b) ++ rest
  ready : s.draws = List.replicate k true ++ more

/-- A tick of timer B runs the lookup entry. -/
theorem State.LookupTicks.step_eq (h : s.LookupTicks (k + 1) rest more) :
    step s = exec .tickbLookup s.consumeEvent := by
  rw [step_of_event h.wellFormed (State.nextEvent_of_schedule h.ticks) (State.operationOf_tick h.armed), h.mode]
  rfl

theorem State.LookupTicks.sampleSent (h : s.LookupTicks (k + 1) rest more) (hz : Hz) :
    (s.consumeEvent.sampleSent hz).LookupTicks k rest more := by
  obtain ⟨hc, hm, ha, hs, hd⟩ := h
  constructor <;> simp [State.sampleSent, List.replicate_succ, hc, hm, ha, hs, hd]

theorem State.LookupTicks.sampleSent_radioTrace (h : s.LookupTicks (k + 1) rest more) (hz : Hz) :
    (s.consumeEvent.sampleSent hz).radioTrace = s.radioTrace ++ [.freqFast hz] := by
  have hready : s.consumeEvent.radioReady = true := by
    rw [State.radioReady, State.consumeEvent_draws, h.ready]
    rfl
  obtain ⟨htrace, -⟩ := s.consumeEvent.sampleSent_emitted hz
  rw [htrace, if_pos hready, State.consumeEvent_radioTrace]

/-- The first tick emits the sample at the cursor; the rest is the stream from the advanced cursor. -/
theorem run_lookupTicks (h : s.LookupTicks k rest more) :
    ∃ (t : State) (new : List RadioEvent), Host.Core.run Sys2Proof.core k s = .next t
      ∧ t.radioTrace = s.radioTrace ++ new
      ∧ new.map RadioEvent.hzInt = sampleValues s.cfg s.atone s.lcur s.lstep k
      ∧ t.lcur.toNat = (s.lcur.toNat + k * s.lstep.toNat) % 256
      ∧ t.schedule = rest ∧ t.draws = more := by
  induction k generalizing s with
  | zero =>
    have hlt : s.lcur.toNat < 256 := s.lcur.isLt
    exact ⟨s, [], rfl, (List.append_nil _).symm, rfl, by omega, h.ticks, h.ready⟩
  | succ k ih =>
    obtain ⟨hz, hexec, hval⟩ := exec_tickbLookup_of_wellFormed (s := s.consumeEvent) (by simpa using h.wellFormed)
    obtain ⟨t, new, hrun, htrace, hnew, hcur, hsched, hdraws⟩ := ih (h.sampleSent hz)
    refine ⟨t, .freqFast hz :: new, (run_succ_of_step (h.step_eq.trans hexec)).trans hrun, ?trace, ?values, ?cursor,
      hsched, hdraws⟩
    case trace => rw [htrace, h.sampleSent_radioTrace, List.append_assoc, List.singleton_append]
    case values =>
      rw [List.map_cons, hnew, sampleValues, RadioEvent.hzInt, hval]
      simp [State.sampleSent]
    case cursor =>
      have hstep : (s.consumeEvent.sampleSent hz).lstep = s.lstep := by simp [State.sampleSent]
      rw [hcur, hstep, State.sampleSent_lcur, advanceCursor_toNat, State.consumeEvent_lcur, State.consumeEvent_lstep,
        Nat.mod_add_mod, Nat.add_assoc, Nat.add_comm s.lstep.toNat, Nat.succ_mul]

end

/-- Settles O40: the state at the start has the `k` ticks and answers ahead of it. -/
theorem lookupSampleStream : Obligations.LookupSampleStream := by
  intro k s rest more hc hm ha hs hd
  exact run_lookupTicks ⟨hc, hm, ha, hs, hd⟩

end Sys2Proof.Machine

namespace Sys2Proof.Machine

/-! ### The coordinator's commands (R205 to R207, R212, R213, R215) -/

section

variable {s : State}

theorem State.anyArmed_eq_true_iff : s.anyArmed = true ↔ s.taArmed = true ∨ s.tbArmed = true := Bool.or_eq_true_iff

theorem State.anyArmed_eq_false_iff : s.anyArmed = false ↔ s.taArmed = false ∧ s.tbArmed = false :=
  Bool.or_eq_false_iff

theorem exec_setMode_cases (m : Mode) (s : State) :
    (s.anyArmed = false ∧ exec (.setMode m) s = .next { s with mode := m })
      ∨ (s.anyArmed = true ∧ exec (.setMode m) s = .next (s.raise .modeConflict)) := by
  cases ha : s.anyArmed with
  | false => exact .inl ⟨rfl, by rw [exec, execSetMode, if_neg (Bool.eq_false_iff.mp ha)]⟩
  | true => exact .inr ⟨rfl, by rw [exec, execSetMode, if_pos ha]⟩

theorem exec_wrTxbuf_of_free {idx : Index} (hidx : idx.toNat < s.cfg.txCap) (hfree : s.txReady = false) (v : Byte) :
    exec (.wrTxbuf idx v) s = .next { s with txbuf := s.txbuf.write idx.toNat v } := by
  rw [exec, execWrTxbuf, if_neg (Nat.not_le_of_lt hidx), if_neg (Bool.eq_false_iff.mp hfree)]

theorem exec_wrApbuf_of_free {idx : Index} (hidx : idx.toNat < s.cfg.apCap) (hfree : s.apReady = false) (v : Byte) :
    exec (.wrApbuf idx v) s = .next { s with apbuf := s.apbuf.write idx.toNat v } := by
  rw [exec, execWrApbuf, if_neg (Nat.not_le_of_lt hidx), if_neg (Bool.eq_false_iff.mp hfree)]

end

/-- Settles O11: the command is the shared operation that stops the timers. -/
theorem stopTimersClearsOnlyArmedBits : Obligations.StopTimersClearsOnlyArmedBits := by
  intro s
  refine ⟨s.stopTimers, rfl, rfl, rfl, ?_⟩
  simp [sameErrors, sameFlags, sameRtty, sameDescriptors, sameAprs, sameData, sameBuffers, sameOutputs, sameHost,
    sameDraws]

/-- Settles O12: with a timer armed the command is the raise of ModeConflict, otherwise the write of MODE. -/
theorem setModeOnlyWhenIdle : Obligations.SetModeOnlyWhenIdle := by
  intro m s
  rcases exec_setMode_cases m s with ⟨ha, he⟩ | ⟨ha, he⟩
  all_goals refine ⟨_, he, fun h => ?_, fun h => ?_, by
    simp [sameTimers, sameFlags, sameRtty, sameDescriptors, sameAprs, sameData, sameBuffers, sameOutputs, sameHost,
      sameDraws]⟩
  · exact ⟨rfl, rfl, rfl, rfl⟩
  · exact absurd (State.anyArmed_eq_true_iff.mpr h) (Bool.eq_false_iff.mp ha)
  · exact absurd ha (Bool.eq_false_iff.mp (State.anyArmed_eq_false_iff.mpr h))
  · exact ⟨rfl, rfl, rfl, rfl⟩

/-- Settles O13: the command stops the timers, releases the buffers and resets the engines, and then writes MODE. -/
theorem abortStopsReleasesAndResets : Obligations.AbortStopsReleasesAndResets := by
  intro s
  refine ⟨{ s.stopTimers.releaseAll.resetEngines with mode := .rttyInterrupt }, rfl, ?_⟩
  simp [txReleased, apReleased, sameErrors, sameDescriptors, sameData, sameBuffers, sameOutputs, sameHost, sameDraws]

/-- Settles O19: the state after the command differs in TXBUF alone, by one stored byte. -/
theorem writeTxbufStoresOneByte : Obligations.WriteTxbufStoresOneByte := by
  intro idx v s hidx hfree
  refine ⟨_, exec_wrTxbuf_of_free hidx hfree v, s.txbuf.read_write_same idx.toNat v,
    fun j hj => s.txbuf.read_write_other idx.toNat j v hj, fun _ => rfl, ?_⟩
  simp [sameTimers, sameErrors, sameFlags, sameRtty, sameDescriptors, sameAprs, sameOutputs, sameHost, sameDraws]

/-- Settles O20, as O19 for APBUF. -/
theorem writeApbufStoresOneByte : Obligations.WriteApbufStoresOneByte := by
  intro idx v s hidx hfree
  refine ⟨_, exec_wrApbuf_of_free hidx hfree v, s.apbuf.read_write_same idx.toNat v,
    fun j hj => s.apbuf.read_write_other idx.toNat j v hj, fun _ => rfl, ?_⟩
  simp [sameTimers, sameErrors, sameFlags, sameRtty, sameDescriptors, sameAprs, sameOutputs, sameHost, sameDraws]

/-- Clearing a bit by its mask bit, as a choice on the mask bit (R215). -/
theorem and_not_eq_ite (bit clear : Bool) : (bit && !clear) = if clear = true then false else bit := by
  cases clear <;> simp

/-- Settles O24: the command is the acknowledgement, which masks each error bit. -/
theorem clearErrorsClearsTheMaskedBits : Obligations.ClearErrorsClearsTheMaskedBits := by
  intro k s
  refine ⟨s.clearErrors k, rfl, and_not_eq_ite _ _, and_not_eq_ite _ _, and_not_eq_ite _ _, ?_⟩
  simp [sameTimers, sameFlags, sameRtty, sameDescriptors, sameAprs, sameData, sameBuffers, sameOutputs, sameHost,
    sameDraws]

/-! ### The STARTs (R201 to R203, R208 to R211) -/

section

variable {s t : State} {n fs fe : Index} {m : Mode} {i : Instr}

/-! #### What every START leaves of the previous transmission -/

theorem State.stopPrevious_previousStopped (s : State) : previousStopped s s.stopPrevious := by
  simp [previousStopped]

theorem State.stopPrevious_txReleased (s : State) : txReleased s s.stopPrevious := by simp [txReleased]

theorem State.stopPrevious_apReleased (s : State) : apReleased s s.stopPrevious := by simp [apReleased]

theorem State.stopPrevious_sameData (s : State) : sameData s s.stopPrevious := by
  simp [sameData, sameBuffers, sameOutputs, sameHost, sameDraws]

/-! #### The STARTs that arm nothing -/

/-- Both RTTY STARTs end where their setup returns (R162). -/
theorem exec_rttyStart_of_returned (hi : i ∈ [Instr.startRtty n, .txRttyPolled n])
    (h : s.rttySetup n = .returned t) : exec i s = .next t := by
  rcases List.mem_pair.mp hi with rfl | rfl
  · rw [exec, execStartRtty, h]
  · rw [exec, execTxRttyPolled, h]

/-- Both APRS STARTs end where their setup returns. -/
theorem exec_aprsStart_of_returned
    (hi : i = .startAprsGfsk fs fe ∧ m = .gfskSync ∨ i = .startAprsLookup fs fe ∧ m = .lookup)
    (h : s.aprsSetup fs fe m = .returned t) : exec i s = .next t := by
  rcases hi with ⟨rfl, rfl⟩ | ⟨rfl, rfl⟩
  · rw [exec, execStartAprsGfsk, h]
  · rw [exec, execStartAprsLookup, h]

/-! #### The lookup engine's start -/

/-- The state an accepted START_APRS_LOOKUP leaves (R209, R211). -/
def State.lookupStarted (s : State) (fs fe : Index) : State :=
  State.armB (State.armA { State.handOverAp
    { s.stopPrevious with mode := .lookup, apFs := fs, apFe := fe, aidx := fs } with
      lcur := 0, lstep := toneStep s.stopPrevious.cfg .t1200 }
    s.stopPrevious.cfg.consts.cmpLutBit)
    s.stopPrevious.cfg.consts.cmpLutSample

theorem exec_startAprsLookup (hlt : fs < fe) (hcap : fe.toNat ≤ s.cfg.apCap) :
    exec (.startAprsLookup fs fe) s = .next (s.lookupStarted fs fe) := by
  rcases s.aprsSetup_cases fs fe .lookup with ⟨h, -⟩ | ⟨-, h, -⟩ | ⟨-, -, h⟩
  · omega
  · exact absurd hlt (BitVec.not_lt.mpr h)
  · rw [exec, execStartAprsLookup, h]
    rfl

/-! #### What a START that armed a timer has started -/

theorem eq_of_exec_startRtty (h : exec (.startRtty n) s = .next t) (ha : t.anyArmed = true) :
    t = (s.polledStart n).armA (s.polledStart n).cfg.consts.cmpRtty := by
  cases ran_of_exec h with
  | startRtty => rfl
  | startRttyTooLong | startRttyEmpty => simp [State.anyArmed] at ha

theorem eq_of_exec_startAprsGfsk (h : exec (.startAprsGfsk fs fe) s = .next t) (ha : t.anyArmed = true) :
    t = s.gfskStarted fs fe := by
  cases ran_of_exec h with
  | startGfsk => rfl
  | startGfskTooLong | startGfskEmpty => simp [State.anyArmed] at ha

theorem eq_of_exec_startAprsLookup (h : exec (.startAprsLookup fs fe) s = .next t) (ha : t.anyArmed = true) :
    t = s.lookupStarted fs fe := by
  cases ran_of_exec h with
  | startLookup => rfl
  | startLookupTooLong | startLookupEmpty => simp [State.anyArmed] at ha

/-! #### Runs without a host command (R216, R221) -/

/-- The first of a run's events is a tick or nothing, if no listed one of them is a command and the host does not
go on after them. -/
theorem State.nextEvent_ne_command {k : Nat} (hs : ∀ w, Event.command w ∉ s.schedule.take (k + 1))
    (hk : k + 1 ≤ s.schedule.length ∨ s.scheduleKind = .finite) (w : Word) : s.nextEvent ≠ some (.command w) := by
  cases hl : s.schedule with
  | cons e rest =>
    rw [State.nextEvent_of_schedule hl]
    rintro ⟨⟩
    exact hs w (by simp [hl])
  | nil =>
    have hfin : s.scheduleKind = .finite := by simpa [hl] using hk
    simp only [State.nextEvent, State.silentEvent, hl, hfin]
    split <;> simp

/-- What taking an event and every tick entry keep, every run without a host command keeps. -/
theorem run_keeps_of_ticks {P : State → Prop} (event : ∀ s, P s → P s.consumeEvent)
    (tick : ∀ s t v, P s → exec (dispatch v s.mode s.rstate) s = .next t → P t) (k : Nat) (s u : State) (hP : P s)
    (hs : ∀ w, Event.command w ∉ s.schedule.take k) (hk : k ≤ s.schedule.length ∨ s.scheduleKind = .finite)
    (h : Host.Core.run Sys2Proof.core k s = .next u) : P u := by
  induction k generalizing s with
  | zero => cases h; exact hP
  | succ k ih =>
    obtain ⟨t, hstep, hrun⟩ := run_succ_next h
    have hPt : P t := by
      rcases step_next_tick hstep (State.nextEvent_ne_command hs hk) with rfl | ⟨v, -, he⟩
      · exact hP
      · exact tick _ t v (event s hP) he
    refine ih t hPt (fun w hw => hs w ?_) ?_ hrun
    · have hrest : t.schedule.take k = (s.schedule.take (k + 1)).tail := by
        rw [step_schedule hstep, List.tail_take_eq_take_tail, Nat.add_sub_cancel]
      exact List.mem_of_mem_tail (hrest ▸ hw)
    · rw [step_schedule hstep, step_scheduleKind hstep, List.length_tail]
      exact hk.imp_left Nat.le_sub_one_of_lt

/-- A tick entry leaves MODE, and arms no timer. -/
theorem tick_mode_tbArmed (hi : isCommand i = false) (h : exec i s = .next t) :
    t.mode = s.mode ∧ (s.tbArmed = false → t.tbArmed = false) := by
  cases ran_of_exec h with
  | pause | startbitChar | startbitDone | reloadChar | reloadDone | byte | stopbit | wait | unusedA | rttyB | gfskB
  | unusedB | gfskDone | lookupDone | gfskBit | lookupKeep | lookupChange | sample => simp
  | _ => cases hi

theorem isCommand_dispatch (v : Timer) (m : Mode) (r : RState) : isCommand (dispatch v m r) = false := by
  cases v <;> cases m <;> cases r <;> rfl

/-- The engine of a mode is the one installed: MODE selects it, and timer B is armed for the lookup engine only. -/
structure State.Installs (m : Mode) (s : State) : Prop where
  mode : s.mode = m
  used : m ≠ .unused
  timerB : m ≠ .lookup → s.tbArmed = false

theorem State.Installs.consumeEvent (h : s.Installs m) : s.consumeEvent.Installs m :=
  ⟨by simpa using h.mode, h.used, by simpa using h.timerB⟩

theorem State.Installs.tick {v : Timer} (h : s.Installs m) (he : exec (dispatch v s.mode s.rstate) s = .next t) :
    t.Installs m := by
  obtain ⟨hmode, htb⟩ := tick_mode_tbArmed (isCommand_dispatch v s.mode s.rstate) he
  exact ⟨hmode.trans h.mode, h.used, fun hm => htb (h.timerB hm)⟩

theorem dispatch_a_mem_engineEntries (hm : m ≠ .unused) (r : RState) : dispatch .a m r ∈ engineEntries m := by
  cases m with
  | rttyInterrupt => cases r <;> simp [dispatch, engineEntries]
  | gfskSync | lookup => simp [dispatch, engineEntries]
  | unused => exact absurd rfl hm

/-- A tick of an armed timer is dispatched to the installed engine (R97). -/
theorem State.Installs.dispatch_mem {v : Timer} (h : s.Installs m) (ha : s.armed v = true) :
    dispatch v s.mode s.rstate ∈ engineEntries m := by
  obtain ⟨rfl, hused, htb⟩ := h
  cases v with
  | a => exact dispatch_a_mem_engineEntries hused s.rstate
  | b =>
    have hm : s.mode = .lookup := by
      by_contra hne
      exact Bool.eq_false_iff.mp (htb hne) ha
    simp [hm, dispatch, engineEntries]

end

/-! #### The statements -/

/-- Settles O14: the setup proceeds with the previous transmission stopped, and timer A is armed. -/
theorem startRttyAccepted : Obligations.StartRttyAccepted := by
  intro n s h0 hn
  exact ⟨_, exec_startRtty h0 hn, rfl, rfl, rfl, rfl, rfl, fun h => if_pos h, fun h => if_neg h,
    by simp, rfl, s.stopPrevious_tbArmed,
    s.stopPrevious_tbCmp, s.stopPrevious_previousStopped, s.stopPrevious_apReleased, s.stopPrevious_errBovr,
    s.stopPrevious_aidx, s.stopPrevious_lstep, s.stopPrevious_apFs, s.stopPrevious_apFe, s.stopPrevious_sameData⟩

/-- Settles O15: the setup returns with the previous transmission stopped, after the raise of BufferOverrun or the
writes of MODE and TXLEN. -/
theorem startRttyEmptyOrTooLong : Obligations.StartRttyEmptyOrTooLong := by
  intro n s i hi hn
  rcases s.rttySetup_cases n with ⟨hlong, he⟩ | ⟨hcap, rfl, he⟩ | ⟨hcap, h0, -⟩
  case inr.inr => exact (hn.elim h0 (Nat.not_lt.mpr hcap)).elim
  all_goals refine ⟨_, exec_rttyStart_of_returned hi he, fun h => ?_, fun h => ?_, s.stopPrevious_taArmed,
    s.stopPrevious_tbArmed, s.stopPrevious_taCmp, s.stopPrevious_tbCmp, s.stopPrevious_previousStopped,
    s.stopPrevious_txReleased, s.stopPrevious_apReleased, s.stopPrevious_rstate, s.stopPrevious_rpause,
    s.stopPrevious_aidx, s.stopPrevious_lstep, s.stopPrevious_apFs, s.stopPrevious_apFe, s.stopPrevious_sameData⟩
  · exact absurd hlong (Nat.not_lt.mpr h)
  · exact ⟨s.stopPrevious_mode, s.stopPrevious_txlen, rfl⟩
  · exact ⟨rfl, rfl, s.stopPrevious_errBovr⟩
  · exact absurd h (Nat.not_lt.mpr hcap)

/-- Settles O16: the setup proceeds with the previous transmission stopped, and timer A is armed. -/
theorem startGfskAccepted : Obligations.StartGfskAccepted := by
  intro fs fe s hlt hcap
  exact ⟨_, exec_startAprsGfsk hlt hcap, rfl, rfl, rfl, rfl, rfl, rfl, by simp [State.gfskStarted], rfl,
    s.stopPrevious_tbArmed, s.stopPrevious_tbCmp, s.stopPrevious_previousStopped, s.stopPrevious_txReleased,
    s.stopPrevious_errBovr, s.stopPrevious_rstate, s.stopPrevious_rpause, s.stopPrevious_lstep,
    s.stopPrevious_txlen, s.stopPrevious_sameData⟩

/-- Settles O17: the setup proceeds with the previous transmission stopped, and both timers are armed. -/
theorem startLookupAccepted : Obligations.StartLookupAccepted := by
  intro fs fe s hlt hcap
  refine ⟨_, exec_startAprsLookup hlt hcap, rfl, rfl, rfl, rfl, rfl, rfl, ?step, ?compareA, ?compareB, rfl, rfl,
    ?stopped, s.stopPrevious_txReleased, s.stopPrevious_errBovr, s.stopPrevious_rstate, s.stopPrevious_rpause,
    s.stopPrevious_txlen, s.stopPrevious_sameData⟩
  case step | compareA | compareB => simp [State.lookupStarted, toneStep]
  case stopped => simp [State.lookupStarted, previousStopped]

/-- Settles O18: the setup returns with the previous transmission stopped, after the raise of BufferOverrun or the
writes of MODE, the window and the cursor. -/
theorem startAprsEmptyOrTooLong : Obligations.StartAprsEmptyOrTooLong := by
  intro fs fe s m i hi hw
  rcases s.aprsSetup_cases fs fe m with ⟨hlong, he⟩ | ⟨hcap, -, he⟩ | ⟨hcap, hlt, -⟩
  case inr.inr => exact (hw.elim (BitVec.not_le.mpr hlt) (Nat.not_lt.mpr hcap)).elim
  all_goals refine ⟨_, exec_aprsStart_of_returned hi he, fun h => ?_, fun h => ?_, s.stopPrevious_taArmed,
    s.stopPrevious_tbArmed, s.stopPrevious_taCmp, s.stopPrevious_tbCmp, s.stopPrevious_previousStopped,
    s.stopPrevious_txReleased, s.stopPrevious_apReleased, s.stopPrevious_rstate, s.stopPrevious_rpause,
    s.stopPrevious_lstep, s.stopPrevious_txlen, s.stopPrevious_sameData⟩
  · exact absurd hlong (Nat.not_lt.mpr h)
  · exact ⟨s.stopPrevious_mode, s.stopPrevious_apFs, s.stopPrevious_apFe, s.stopPrevious_aidx, rfl⟩
  · exact ⟨rfl, rfl, rfl, rfl, s.stopPrevious_errBovr⟩
  · exact absurd h (Nat.not_lt.mpr hcap)

/-- Settles O57: a START that armed a timer has left its started state, which installs its engine; no tick writes
MODE or arms a timer, so the engine stays installed. -/
theorem startInstallsOneEngine : Obligations.StartInstallsOneEngine := by
  intro i s t h ha
  refine ⟨?rtty, ?gfsk, ?lookup, ?ticks⟩
  case rtty =>
    rintro n rfl
    obtain rfl := eq_of_exec_startRtty h ha
    rcases startState_cases s.cfg.rttyPauseTicks with hr | hr <;> simp [hr, dispatch]
  case gfsk =>
    rintro fs fe rfl
    obtain rfl := eq_of_exec_startAprsGfsk h ha
    simp [State.gfskStarted, dispatch]
  case lookup =>
    rintro fs fe rfl
    obtain rfl := eq_of_exec_startAprsLookup h ha
    simp [State.lookupStarted, dispatch]
  case ticks =>
    intro m hm k u hs hk hrun
    have hinst : t.Installs m := by
      rcases hm with ⟨⟨n, rfl⟩, rfl⟩ | ⟨⟨fs, fe, rfl⟩, rfl⟩ | ⟨⟨fs, fe, rfl⟩, rfl⟩
      · obtain rfl := eq_of_exec_startRtty h ha
        exact ⟨rfl, by decide, fun _ => s.stopPrevious_tbArmed⟩
      · obtain rfl := eq_of_exec_startAprsGfsk h ha
        exact ⟨rfl, by decide, fun _ => s.stopPrevious_tbArmed⟩
      · obtain rfl := eq_of_exec_startAprsLookup h ha
        exact ⟨rfl, by decide, fun hne => absurd rfl hne⟩
    have hu : u.Installs m :=
      run_keeps_of_ticks (fun _ => .consumeEvent) (fun _ _ _ => .tick) k t u hinst hs hk hrun
    exact ⟨hu.mode, fun _ => hu.dispatch_mem⟩

end Sys2Proof.Machine

namespace Sys2Proof.Machine

/-! ### Where the error bits are raised (R230 to R233, R250) -/

section

variable {s t u v : State} {i : Instr} {n : Index} {hz : Hz} {k : Nat}

/-! #### ChipNotReady: a false readiness draw (R231) -/

/-- An emission that sets ERR_CNR met a false draw. -/
theorem radioReady_eq_false_of_emitted (h : emitted s t hz) (hs : s.errCnr = false) (ht : t.errCnr = true) :
    s.radioReady = false := by
  obtain ⟨-, hcnr, -⟩ := h
  by_contra hr
  rw [if_pos (Bool.eq_true_of_not_eq_false hr), hs] at hcnr
  exact Bool.false_ne_true (hcnr.symm.trans ht)

/-- From `s` to `t` one emission was made, or none. -/
def EmitsAtMostOnce (s t : State) : Prop := (∃ hz, emitted s t hz) ∨ notEmitted s t

theorem State.rttyStop_emitsAtMostOnce (s : State) : EmitsAtMostOnce s s.rttyStop := by
  by_cases h : s.rbitcnt = stopBitCount s.cfg.rttyNstop
  · exact .inl ⟨_, s.rttyStop_emitted h⟩
  · exact .inr (s.rttyStop_notEmitted h)

/-- What `k` emissions from `s` leave: `k` draws used, and ERR_CNR raised only if one of them was false. -/
structure State.Emissions (s : State) (k : Nat) (u : State) : Prop where
  draws : u.draws = s.draws.drop k
  drawCount : u.drawCount = s.drawCount + k
  falseDraw : s.errCnr = false → u.errCnr = true → ∃ j, j < k ∧ s.answerAt j = false

/-- The next answer after `k` emissions is number `k` of the start. -/
theorem State.Emissions.radioReady (h : s.Emissions k u) : u.radioReady = s.answerAt k := by
  rw [State.radioReady, State.answerAt, h.draws, h.drawCount, ← List.head?_drop]
  cases s.draws.drop k <;> rfl

theorem State.Emissions.emitted (h : s.Emissions k u) (he : emitted u v hz) : s.Emissions (k + 1) v := by
  have ⟨_, _, hdraws, hcount⟩ := he
  refine ⟨by rw [hdraws, h.draws, List.tail_drop], by rw [hcount, h.drawCount, Nat.add_assoc], fun hs hv => ?_⟩
  cases hu : u.errCnr with
  | true =>
    obtain ⟨j, hj, hfalse⟩ := h.falseDraw hs hu
    exact ⟨j, Nat.lt_succ_of_lt hj, hfalse⟩
  | false => exact ⟨k, Nat.lt_succ_self k, h.radioReady.symm.trans (radioReady_eq_false_of_emitted he hu hv)⟩

theorem State.Emissions.notEmitted (h : s.Emissions k u) (hn : notEmitted u v) : s.Emissions k v := by
  obtain ⟨-, hcnr, hdraws, hcount⟩ := hn
  exact ⟨hdraws.trans h.draws, hcount.trans h.drawCount, fun hs hv => h.falseDraw hs (hcnr.symm.trans hv)⟩

theorem State.Emissions.emitsAtMostOnce (h : s.Emissions k u) (he : EmitsAtMostOnce u v) :
    ∃ k', s.Emissions k' v := by
  rcases he with ⟨hz, he⟩ | hn
  · exact ⟨k + 1, h.emitted he⟩
  · exact ⟨k, h.notEmitted hn⟩

/-- The polled loop makes some number of emissions, at most one a pass. -/
theorem polled_emissions (hp : pollLoop (rttyPasses s.cfg n) (s.polledStart n) = .next t) :
    ∃ k, s.Emissions k t :=
  (polled_induction (fun u => ∃ k, s.Emissions k u) hp
    (start := ⟨0, by simp, by simp, by simp +contextual⟩)
    (pause := fun u ⟨k, hu⟩ _ => ⟨k, hu.notEmitted (by simp [notEmitted, sameDraws])⟩)
    (byte := fun u ⟨_, hu⟩ _ => ⟨_, hu.emitted u.rttyByte_emitted⟩)
    (stop := fun u ⟨_, hu⟩ _ => hu.emitsAtMostOnce u.rttyStop_emitsAtMostOnce)
    (char := fun u b ⟨_, hu⟩ _ _ _ => ⟨_, hu.emitted (u.charStarted_emitted b)⟩)
    (complete := fun u ⟨k, hu⟩ _ _ => ⟨k, hu.notEmitted (by simp [notEmitted, sameDraws])⟩)).1

/-- The tick entries that emit, in the table's ChipNotReady column (R250). -/
def emittingTicks : List Instr :=
  [.tickaRttyStartbit, .tickaRttyByte, .tickaRttyStopbit, .tickaRttyReload, .tickaGfsk, .tickbLookup]

/-- An emitting tick entry emits at most once, the polled loop any number of times, and only an emission raises
ERR_CNR. -/
theorem exec_raises_errCnr (h : exec i s = .next t) (hs : s.errCnr = false) (ht : t.errCnr = true) :
    (i ∈ emittingTicks ∧ ∃ hz, emitted s t hz) ∨ (∃ n, i = .txRttyPolled n) ∧ ∃ k, s.Emissions k t := by
  cases ran_of_exec h with
  | polled n t _ _ hp => exact .inr ⟨⟨n, rfl⟩, polled_emissions hp⟩
  | startbitChar b | reloadChar b => exact .inl ⟨by simp [emittingTicks], _, s.charStarted_emitted b⟩
  | byte => exact .inl ⟨by simp [emittingTicks], _, s.rttyByte_emitted⟩
  | stopbit =>
    rcases s.rttyStop_emitsAtMostOnce with he | ⟨-, hcnr, -⟩
    · exact .inl ⟨by simp [emittingTicks], he⟩
    · rw [hcnr, hs] at ht; cases ht
  | gfskBit b => exact .inl ⟨by simp [emittingTicks], _, s.gfskSent_emitted b⟩
  | sample hz => exact .inl ⟨by simp [emittingTicks], _, s.sampleSent_emitted hz⟩
  | _ => simp [hs] at ht

/-! #### BufferOverrun and ModeConflict (R232, R233) -/

/-- The polled loop raises neither error: ERR_MODE is the START's. -/
theorem polled_errBovr_errMode (hp : pollLoop (rttyPasses s.cfg n) (s.polledStart n) = .next t) :
    t.errBovr = s.errBovr ∧ t.errMode = (s.errMode || s.anyArmed) := by
  refine (polled_induction (fun u => u.errBovr = s.errBovr ∧ u.errMode = (s.errMode || s.anyArmed)) hp
    ?_ ?_ ?_ ?_ ?_ ?_).1 <;> simp +contextual

/-- A length, a window or an index is beyond its capacity wherever ERR_BOVR is raised. -/
theorem exec_raises_errBovr (h : exec i s = .next t) (hs : s.errBovr = false) (ht : t.errBovr = true) :
    (∃ n, (i = .startRtty n ∨ i = .txRttyPolled n) ∧ s.cfg.txCap < n.toNat)
      ∨ (∃ fs fe, (i = .startAprsGfsk fs fe ∨ i = .startAprsLookup fs fe) ∧ s.cfg.apCap < fe.toNat)
      ∨ (∃ idx v, i = .wrTxbuf idx v ∧ s.cfg.txCap ≤ idx.toNat)
      ∨ (∃ idx v, i = .wrApbuf idx v ∧ s.cfg.apCap ≤ idx.toNat) := by
  cases ran_of_exec h with
  | startRttyTooLong n hn => exact .inl ⟨n, .inl rfl, hn⟩
  | polledTooLong n hn => exact .inl ⟨n, .inr rfl, hn⟩
  | startGfskTooLong fs fe hfe => exact .inr (.inl ⟨fs, fe, .inl rfl, hfe⟩)
  | startLookupTooLong fs fe hfe => exact .inr (.inl ⟨fs, fe, .inr rfl, hfe⟩)
  | wrTxbufOver idx v hidx => exact .inr (.inr (.inl ⟨idx, v, rfl, hidx⟩))
  | wrApbufOver idx v hidx => exact .inr (.inr (.inr ⟨idx, v, rfl, hidx⟩))
  | polled n t _ _ hp =>
    obtain ⟨hbovr, -⟩ := polled_errBovr_errMode hp
    rw [hbovr, hs] at ht; cases ht
  | _ => simp [hs] at ht

/-- The commands of the table's ModeConflict column: the STARTs, which stop what runs, and SET_MODE (R250). -/
def checksArmed (i : Instr) : Prop :=
  (∃ n, i = .startRtty n ∨ i = .txRttyPolled n)
    ∨ (∃ fs fe, i = .startAprsGfsk fs fe ∨ i = .startAprsLookup fs fe) ∨ ∃ m, i = .setMode m

/-- ERR_MODE is raised by a command of the table that finds a timer armed. -/
theorem exec_raises_errMode (h : exec i s = .next t) (hs : s.errMode = false) (ht : t.errMode = true) :
    s.anyArmed = true ∧ checksArmed i := by
  cases ran_of_exec h with
  | setModeBusy m ha => exact ⟨ha, .inr (.inr ⟨m, rfl⟩)⟩
  | startRttyTooLong n | startRttyEmpty n | startRtty n => exact ⟨by simpa [hs] using ht, .inl ⟨n, .inl rfl⟩⟩
  | polledTooLong n | polledEmpty n => exact ⟨by simpa [hs] using ht, .inl ⟨n, .inr rfl⟩⟩
  | polled n t _ _ hp =>
    obtain ⟨-, hmode⟩ := polled_errBovr_errMode hp
    exact ⟨by simpa [hmode, hs] using ht, .inl ⟨n, .inr rfl⟩⟩
  | startGfskTooLong fs fe | startGfskEmpty fs fe | startGfsk fs fe =>
    exact ⟨by simpa [hs] using ht, .inr (.inl ⟨fs, fe, .inl rfl⟩)⟩
  | startLookupTooLong fs fe | startLookupEmpty fs fe | startLookup fs fe =>
    exact ⟨by simpa [hs] using ht, .inr (.inl ⟨fs, fe, .inr rfl⟩)⟩
  | _ => simp [hs] at ht

end

/-- Settles O44: an emission that raises ERR_CNR met a false draw, one of those the polled loop used or the one of
the tick entry; the other two bits are raised by the commands that test their conditions. -/
theorem onlyListedOperationsRaiseErrors : Obligations.OnlyListedOperationsRaiseErrors := by
  intro i s t h
  refine ⟨fun hs ht => ?chipNotReady, exec_raises_errBovr h, fun hs ht => ?modeConflict⟩
  case chipNotReady =>
    rcases exec_raises_errCnr h hs ht with ⟨hi, hz, he⟩ | ⟨hi, k, he⟩
    · have ⟨_, _, _, hcount⟩ := he
      exact .inl ⟨hi, radioReady_eq_false_of_emitted he hs ht, hcount⟩
    · obtain ⟨j, hj, hfalse⟩ := he.falseDraw hs ht
      exact .inr ⟨hi, j, by rw [he.drawCount]; omega, hfalse⟩
  case modeConflict =>
    obtain ⟨harmed, hi⟩ := exec_raises_errMode h hs ht
    exact ⟨State.anyArmed_eq_true_iff.mp harmed, hi⟩

/-! ### What faults, and what is not serviced (R239, R240, R249, R250) -/

/-- The faults of a bit fetch. -/
theorem State.nextBit_error {s : State} {f : Fault} (h : s.nextBit = .error f) :
    f = .unwrittenBufferRead ∨ f = .indexOutsideBuffer := by
  rcases s.nextBit_cases with ⟨v, -, -, hb⟩ | ⟨-, hb⟩ | ⟨-, hb⟩ <;> rw [hb] at h <;> cases h
  · exact .inl rfl
  · exact .inr rfl

/-- Settles O45: a fault is a write in flight, or that of a character load or a bit fetch; the polled loop's is
that of a character load. -/
theorem onlyListedOperationsFault : Obligations.OnlyListedOperationsFault := by
  intro i s f h
  rcases exec_fault_cases h with hw | ⟨hi, -, hl⟩ | ⟨hi, -, hb⟩ | ⟨hi, u, -, -, hl⟩
  · exact .inl hw
  · exact .inr ⟨(State.loadChar_error hl).imp_right And.left, .inl (by rcases hi with rfl | rfl <;> simp)⟩
  · exact .inr ⟨State.nextBit_error hb, .inl (by rcases hi with rfl | rfl <;> simp)⟩
  · exact .inr ⟨(State.loadChar_error hl).imp_right And.left, .inr hi⟩

theorem exec_wrTxbuf_in_flight {idx : Index} {s : State} (hidx : idx.toNat < s.cfg.txCap) (hr : s.txReady = true)
    (v : Byte) : exec (.wrTxbuf idx v) s = .fault .handoffViolation := by
  rw [exec, execWrTxbuf, if_neg (Nat.not_le_of_lt hidx), if_pos hr]

theorem exec_wrApbuf_in_flight {idx : Index} {s : State} (hidx : idx.toNat < s.cfg.apCap) (hr : s.apReady = true)
    (v : Byte) : exec (.wrApbuf idx v) s = .fault .handoffViolation := by
  rw [exec, execWrApbuf, if_neg (Nat.not_le_of_lt hidx), if_pos hr]

/-- Settles O22: inside the capacity the bounds check passes, and the hand-off check meets the buffer in flight. -/
theorem writeInFlightIsHandoffViolation : Obligations.WriteInFlightIsHandoffViolation := by
  intro idx v s i hi
  rcases hi with ⟨rfl, hidx, hr⟩ | ⟨rfl, hidx, hr⟩
  · exact exec_wrTxbuf_in_flight hidx hr v
  · exact exec_wrApbuf_in_flight hidx hr v

theorem State.operationOf_tick_unarmed {s : State} {v : Timer} (h : s.armed v = false) :
    s.operationOf (.tick v) = .error .timerNotArmed := if_neg (Bool.eq_false_iff.mp h)

/-- The step whose next event has no operation. -/
theorem step_of_no_operation {s : State} {e : Event} {r : Refusal} (hc : s.cfg.wellFormed = true)
    (he : s.nextEvent = some e) (ho : s.operationOf e = .error r) : step s = .refused r := by
  rw [step, State.fetch, if_pos hc, he]
  simp only [ho]

/-- Settles O8: the tick at the head of the schedule is the next event, and an unarmed timer gives it no
operation. -/
theorem unarmedTickIsNotServiced : Obligations.UnarmedTickIsNotServiced := by
  intro s v rest hc hs ha
  exact step_of_no_operation hc (State.nextEvent_of_schedule hs) (State.operationOf_tick_unarmed ha)

/-! ### The fields of the main context (R247) -/

/-- Settles O53: each tick entry writes the fields of its engine alone, and ERR_CNR is cleared by CLR_ERR only,
which is a command. -/
theorem ticksLeaveMainContextFields : Obligations.TicksLeaveMainContextFields := by
  intro i s t hi h
  have hclr : ∀ k, i ≠ .clrErr k := by rintro k rfl; cases hi
  obtain ⟨hcnr, -, -⟩ := onlyClearErrorsClearsAnErrorBit i s t hclr h
  have hframe : sameBuffers s t ∧ t.mode = s.mode ∧ t.taCmp = s.taCmp ∧ t.tbCmp = s.tbCmp ∧ sameDescriptors s t
      ∧ t.errBovr = s.errBovr ∧ t.errMode = s.errMode ∧ t.rdregValues = s.rdregValues := by
    cases ran_of_exec h with
    | pause | startbitChar | startbitDone | reloadChar | reloadDone | byte | stopbit | wait | unusedA | rttyB | gfskB
    | unusedB | gfskDone | lookupDone | gfskBit | lookupKeep | lookupChange | sample =>
      simp [sameBuffers, sameDescriptors]
    | _ => cases hi
  obtain ⟨hbuf, hmode, hta, htb, hdesc, hbovr, herr, hvals⟩ := hframe
  exact ⟨hbuf, hmode, hta, htb, hdesc, hbovr, herr, hcnr, hvals⟩

end Sys2Proof.Machine

namespace Sys2Proof.Machine

/-! ### What follows the listed events (R239, R241, R274, R278) -/

section

variable {s t : State} {v : Timer} {r : Nat → State} {n : Nat}

theorem State.anyArmed_of_armed (h : s.armed v = true) : s.anyArmed = true := by
  cases v with
  | a => exact State.anyArmed_eq_true_iff.mpr (.inl h)
  | b => exact State.anyArmed_eq_true_iff.mpr (.inr h)

theorem State.nextEvent_finite (hs : s.schedule = []) (hk : s.scheduleKind = .finite) :
    s.nextEvent = s.silentEvent := by simp [State.nextEvent, hs, hk]

theorem State.nextEvent_infinite (hs : s.schedule = []) (hk : s.scheduleKind = .infinite) :
    s.nextEvent = some s.freeEvent := by simp [State.nextEvent, hs, hk]

theorem State.consumeEvent_of_exhausted (hs : s.schedule = []) :
    s.consumeEvent = { s with choiceCount := s.choiceCount + 1 } := by simp [State.consumeEvent, hs]

/-- A silent host leaves nothing to do, or the tick of an armed timer. -/
theorem State.silentEvent_cases (s : State) :
    (s.anyArmed = false ∧ s.silentEvent = none) ∨ ∃ v, s.armed v = true ∧ s.silentEvent = some (.tick v) := by
  unfold State.silentEvent
  cases ha : s.taArmed <;> cases hb : s.tbArmed
  · exact .inl ⟨State.anyArmed_eq_false_iff.mpr ⟨ha, hb⟩, rfl⟩
  · exact .inr ⟨.b, hb, rfl⟩
  · exact .inr ⟨.a, ha, rfl⟩
  · exact .inr ⟨_, by split <;> assumption, rfl⟩

theorem State.silentEvent_of_idle (h : s.anyArmed = false) : s.silentEvent = none := by
  rcases s.silentEvent_cases with ⟨-, hn⟩ | ⟨v, ha, -⟩
  · exact hn
  · exact absurd (State.anyArmed_of_armed ha) (Bool.eq_false_iff.mp h)

theorem State.silentEvent_of_armed (h : s.anyArmed = true) :
    ∃ v, s.armed v = true ∧ s.silentEvent = some (.tick v) :=
  s.silentEvent_cases.resolve_left fun ⟨hf, _⟩ => Bool.eq_false_iff.mp hf h

theorem State.armed_of_freeEvent (h : s.freeEvent = .tick v) : s.armed v = true := by
  unfold State.freeEvent at h
  split at h
  · split at h
    · next ha => cases h; exact ha
    · cases h
  · cases h

/-- A well-formed block with nothing to do stays as it is. -/
theorem step_of_no_event (hc : s.cfg.wellFormed = true) (he : s.nextEvent = none) : step s = .next s := by
  simp [step, State.fetch, hc, he]

/-- A step whose next event is a tick runs the entry dispatched for an armed timer. -/
theorem exec_of_tick_step (he : s.nextEvent = some (.tick v)) (h : step s = .next t) :
    s.armed v = true ∧ exec (dispatch v s.mode s.rstate) s.consumeEvent = .next t := by
  rcases step_next_cases h with ⟨-, hs, hi, hk⟩ | ⟨e, i, -, hn, ho, hx⟩
  · rw [State.nextEvent_finite hs hk, State.silentEvent_of_idle hi] at he
    cases he
  · cases he.symm.trans hn
    rcases State.operationOf_cases ho with ⟨w, hw, -⟩ | ⟨u, hu, ha, rfl⟩
    · cases hw
    · cases hu
      exact ⟨ha, hx⟩

/-- An ended state is stable (R274). -/
theorem State.ended.step_eq (he : s.ended) (h : step s = .next t) : t = s := by
  obtain ⟨ha, hb, hs, hk⟩ := he
  have hidle := State.anyArmed_eq_false_iff.mpr ⟨ha, hb⟩
  rcases step_next_cases h with ⟨rfl, -⟩ | ⟨e, i, -, hn, -⟩
  · rfl
  · rw [State.nextEvent_finite hs hk, State.silentEvent_of_idle hidle] at hn
    cases hn

/-! #### Every infinite run is fair -/

theorem IsRun.schedule_nil_of_length_le (h : IsRun r) (hn : (r 0).schedule.length ≤ n) : (r n).schedule = [] := by
  have hdrop : ∀ k, (r k).schedule = (r 0).schedule.drop k := by
    intro k
    induction k with
    | zero => rfl
    | succ k ih => rw [step_schedule (h k), ih, List.tail_drop]
  rw [hdrop, List.drop_eq_nil_of_le hn]

theorem IsRun.scheduleKind (h : IsRun r) (n : Nat) : (r n).scheduleKind = (r 0).scheduleKind := by
  induction n with
  | zero => rfl
  | succ n ih => rw [step_scheduleKind (h n), ih]

/-- Beyond the listed events, with a timer armed, each step of a run takes one choice. -/
theorem IsRun.choiceCount_add (h : IsRun r) (hs : ∀ m, n ≤ m → (r m).schedule = [])
    (ha : ∀ m, n ≤ m → (r m).anyArmed = true) (k : Nat) : (r (n + k)).choiceCount = (r n).choiceCount + k := by
  induction k with
  | zero => rfl
  | succ k ih =>
    have hle : n ≤ n + k := Nat.le_add_right n k
    calc (r (n + k + 1)).choiceCount
      _ = (r (n + k)).choiceCount + 1 := step_choiceCount (h (n + k)) (hs _ hle) (.inl (ha _ hle))
      _ = (r n).choiceCount + (k + 1) := by rw [ih, Nat.add_assoc]

/-- The choices are taken one by one, and the timer's turn is among those still to come. -/
theorem IsRun.fairRun (h : IsRun r) : FairRun r := by
  intro v n ha
  let start := max n (r 0).schedule.length
  have hstart : n ≤ start := Nat.le_max_left _ _
  have hs : ∀ m, start ≤ m → (r m).schedule = [] := fun m hm =>
    h.schedule_nil_of_length_le (le_trans (Nat.le_max_right _ _) hm)
  obtain ⟨c, hc, hturn⟩ := agentAt_fair (r start).choiceCount v
  obtain ⟨k, rfl⟩ := Nat.exists_eq_add_of_le hc
  have hm : start ≤ start + k := Nat.le_add_right start k
  have hcount := h.choiceCount_add hs (fun m hm => State.anyArmed_of_armed (ha m (hstart.trans hm))) k
  exact ⟨start + k, hstart.trans hm, nextEvent_of_turn (hs _ hm) (ha _ (hstart.trans hm)) (hcount ▸ hturn)⟩

/-! #### A step of a transmission comes no further from its end -/

theorem State.Inv.taArmed_of_anyArmed (hi : s.Inv) (h : s.anyArmed = true) : s.taArmed = true := by
  rcases State.anyArmed_eq_true_iff.mp h with ha | hb
  · exact ha
  · obtain ⟨-, ha, -⟩ := hi.armedB hb
    exact ha

/-- The ticks still needed are counted from the engines' registers alone. -/
theorem State.ticksLeft_of_same (h : sameControl s t) (hr : sameRtty s t) (hbit : t.abit = s.abit) :
    t.ticksLeft = s.ticksLeft := by
  obtain ⟨hm, -, -, -, ⟨hlen, -, hfe⟩, hidx, hcfg⟩ := h
  obtain ⟨hst, hcnt, -, hpause, htx⟩ := hr
  simp only [State.ticksLeft, State.passesLeft, hm, hlen, hfe, hidx, hcfg, hst, hcnt, hpause, htx, hbit]

theorem State.ticksLeft_consumeEvent (s : State) : s.consumeEvent.ticksLeft = s.ticksLeft :=
  State.ticksLeft_of_same (by simp) (by simp [sameRtty]) (by simp)

theorem exec_ticksLeft_of_leavesTransmission {i : Instr} (hl : leavesTransmission i) (h : exec i s = .next t) :
    t.ticksLeft = s.ticksLeft := by
  cases ran_of_exec h with
  | nop => rfl
  | rdreg | clrErr | wrTxbufOver | wrTxbuf | wrApbufOver | wrApbuf =>
    exact State.ticksLeft_of_same (by simp) (by simp [sameRtty]) (by simp)
  | _ => cases hl

/-- The step of timer A's tick disarms it, or leaves one tick less to come. -/
theorem step_tickA_progress (hi : s.Inv) (he : s.nextEvent = some (.tick .a)) (h : step s = .next t) :
    t.taArmed = false ∨ t.ticksLeft < s.ticksLeft := by
  obtain ⟨ha, hx⟩ := exec_of_tick_step he h
  have hmode : s.mode ≠ .unused := fun hm =>
    Bool.eq_false_iff.mp (hi.unusedIdle hm) (State.anyArmed_of_armed ha)
  have hwait : s.mode = .rttyInterrupt → s.rstate ≠ .wait := fun hm => by
    obtain ⟨-, hw, -⟩ := hi.runningRtty ha hm
    exact hw
  rw [← s.ticksLeft_consumeEvent]
  rw [← s.consumeEvent_mode] at hmode hwait hx
  rw [← s.consumeEvent_rstate] at hwait hx
  exact tickA_progress hmode hwait hx

/-- Any step but that of a host command R274 does not allow disarms timer A, or leaves no more ticks to come. -/
theorem step_ticksLeft_le (hi : s.Inv) (hl : s.nextLeavesTransmission) (h : step s = .next t) :
    t.taArmed = false ∨ t.ticksLeft ≤ s.ticksLeft := by
  rcases step_next_cases h with ⟨rfl, -⟩ | ⟨e, i, -, hn, ho, hx⟩
  · exact .inr le_rfl
  · rcases State.operationOf_cases ho with ⟨w, rfl, hd⟩ | ⟨v, rfl, ha, rfl⟩
    · right
      rw [exec_ticksLeft_of_leavesTransmission (hl w i hn hd) hx, s.ticksLeft_consumeEvent]
    · cases v with
      | a => exact (step_tickA_progress hi hn h).imp_right le_of_lt
      | b =>
        obtain ⟨hm, -, -⟩ := hi.armedB ha
        rw [hm] at hx
        right
        rw [tickB_ticksLeft hx, s.ticksLeft_consumeEvent]

/-! #### Fed runs -/

theorem IsRun.fedRun (h : IsRun r) : FedRun r := fun n => ⟨r (n + 1), [], h n, by simp⟩

/-- A step of a fed run is a step of the machine, but for the events that join the schedule: neither the invariants
nor the ticks still needed depend on them. -/
theorem FedRun.exists_step (h : FedRun r) (n : Nat) :
    ∃ t, step (r n) = .next t ∧ (r (n + 1)).taArmed = t.taArmed ∧ (r (n + 1)).ticksLeft = t.ticksLeft
      ∧ (t.Inv → (r (n + 1)).Inv) := by
  obtain ⟨t, more, hstep, hnext⟩ := h n
  refine ⟨t, hstep, ?_⟩
  rw [hnext]
  exact ⟨rfl, rfl, fun hi => hi.of_same (by simp) (by simp [sameRtty])⟩

theorem FedRun.inv (h : FedRun r) (hi : (r 0).Inv) (n : Nat) : (r n).Inv := by
  induction n with
  | zero => exact hi
  | succ n ih =>
    obtain ⟨t, hstep, -, -, hinv⟩ := h.exists_step n
    exact hinv (everyStepKeepsTheInvariants _ t ih hstep)

/-- While timer A stays armed, no step but that of a host command R274 does not allow adds to the ticks needed. -/
theorem FedRun.ticksLeft_succ_le (h : FedRun r) (hi : (r 0).Inv) (hl : (r n).nextLeavesTransmission)
    (ha : (r (n + 1)).taArmed = true) : (r (n + 1)).ticksLeft ≤ (r n).ticksLeft := by
  obtain ⟨t, hstep, hta, hticks, -⟩ := h.exists_step n
  rw [hta] at ha
  exact hticks ▸ (step_ticksLeft_le (h.inv hi n) hl hstep).resolve_left (by simp [ha])

theorem FedRun.ticksLeft_succ_lt_of_tickA (h : FedRun r) (hi : (r 0).Inv) (he : (r n).nextEvent = some (.tick .a))
    (ha : (r (n + 1)).taArmed = true) : (r (n + 1)).ticksLeft < (r n).ticksLeft := by
  obtain ⟨t, hstep, hta, hticks, -⟩ := h.exists_step n
  rw [hta] at ha
  exact hticks ▸ (step_tickA_progress (h.inv hi n) he hstep).resolve_left (by simp [ha])

/-- R274: were timer A armed for ever, the ticks still needed would never rise, and by fairness would fall below
their least value. -/
theorem FedRun.completes (h : FedRun r) (hfair : FairRun r) (hi : (r 0).Inv)
    (hl : ∀ m, n ≤ m → (r m).nextLeavesTransmission) : ∃ m, n ≤ m ∧ (r m).anyArmed = false := by
  by_contra hnone
  have harmed : ∀ m, n ≤ m → (r m).taArmed = true := fun m hm =>
    (h.inv hi m).taArmed_of_anyArmed (Bool.of_not_eq_false fun hf => hnone ⟨m, hm, hf⟩)
  let left : Nat → Nat := fun k => (r (n + k)).ticksLeft
  have hanti : Antitone left := antitone_nat_of_succ_le fun k =>
    h.ticksLeft_succ_le hi (hl _ (Nat.le_add_right n k)) (harmed _ (Nat.le_add_right n (k + 1)))
  let least := Function.argmin left
  obtain ⟨m, hm, htick⟩ := hfair .a (n + least) fun m hm => harmed m (le_trans (Nat.le_add_right n least) hm)
  obtain ⟨k, rfl⟩ := Nat.exists_eq_add_of_le hm
  have hfall : left (least + k + 1) < left (least + k) := by
    have hlt := h.ticksLeft_succ_lt_of_tickA hi htick (harmed _ (by omega))
    simpa only [left, Nat.add_assoc] using hlt
  exact Function.not_lt_argmin left (least + k + 1) (hfall.trans_le (hanti (Nat.le_add_right least k)))

/-! #### The end of a run -/

/-- Once its schedule is exhausted a run of a finite one has no host command, so a transmission under way completes. -/
theorem IsRun.exists_ended (h : IsRun r) (hi : (r 0).Inv) (hk : (r 0).scheduleKind = .finite) :
    ∃ n, (r n).ended := by
  have hs : ∀ m, (r 0).schedule.length ≤ m → (r m).schedule = [] := fun m => h.schedule_nil_of_length_le
  have hfin : ∀ m, (r m).scheduleKind = .finite := fun m => (h.scheduleKind m).trans hk
  have hl : ∀ m, (r 0).schedule.length ≤ m → (r m).nextLeavesTransmission := by
    intro m hm w i hw
    rw [State.nextEvent_finite (hs m hm) (hfin m)] at hw
    rcases (r m).silentEvent_cases with ⟨-, he⟩ | ⟨v, -, he⟩ <;> cases he.symm.trans hw
  obtain ⟨m, hm, hidle⟩ := h.fedRun.completes h.fairRun hi hl
  obtain ⟨ha, hb⟩ := State.anyArmed_eq_false_iff.mp hidle
  exact ⟨m, ha, hb, hs m hm, hfin m⟩

theorem IsRun.eq_of_ended (h : IsRun r) (he : (r n).ended) {m : Nat} (hm : n ≤ m) : r m = r n := by
  induction m, hm using Nat.le_induction with
  | base => rfl
  | succ m _ ih => exact (State.ended.step_eq (ih ▸ he) (h m)).trans ih

/-! #### The step of an exhausted schedule -/

theorem step_of_exhausted_idle (hc : s.cfg.wellFormed = true) (hs : s.schedule = []) (hk : s.scheduleKind = .finite)
    (hidle : s.anyArmed = false) : step s = .next s :=
  step_of_no_event hc ((State.nextEvent_finite hs hk).trans (State.silentEvent_of_idle hidle))

theorem step_of_exhausted_armed (hc : s.cfg.wellFormed = true) (hs : s.schedule = []) (hk : s.scheduleKind = .finite)
    (harmed : s.anyArmed = true) :
    ∃ v, s.armed v = true
      ∧ step s = exec (dispatch v s.mode s.rstate) { s with choiceCount := s.choiceCount + 1 } := by
  obtain ⟨v, ha, he⟩ := State.silentEvent_of_armed harmed
  refine ⟨v, ha, ?_⟩
  rw [step_of_event hc ((State.nextEvent_finite hs hk).trans he) (State.operationOf_tick ha),
    State.consumeEvent_of_exhausted hs]

end

/-- Settles O9: the events beyond the listed ones by the schedule's kind; fairness by the turns of the agents' order;
the end of a transmission by the ticks it still needs, which each tick of timer A lowers. -/
theorem silentHostStep : Obligations.SilentHostStep := by
  refine ⟨?_, ?_, fun _ => IsRun.fairRun, ?_, fun _ h hfair hi _ => h.completes hfair hi⟩
  · intro s hc hs hk
    refine ⟨step_of_exhausted_idle hc hs hk, fun harmed => ?_⟩
    obtain ⟨v, ha, hstep⟩ := step_of_exhausted_armed hc hs hk harmed
    exact ⟨v, _, ha, decodeKey_dispatchKey v s.mode s.rstate, hstep⟩
  · intro s hs hk
    refine ⟨s.freeEvent, State.nextEvent_infinite hs hk, ?_⟩
    intro v hv
    exact State.armed_of_freeEvent hv
  · intro r h hi hk
    obtain ⟨n, hend⟩ := h.exists_ended hi hk
    exact ⟨n, hend, fun m => h.eq_of_ended hend⟩

end Sys2Proof.Machine
